-- ==== Sys2Proof/Word.lean ====
section
/-! DEFINITION. The word types of the machine (spec/00_scope.md R5, R7; spec/30_encoding.md R91). -/

namespace Sys2Proof

/-- One byte: a general register, a timer, SP, a memory cell (R5, `REG_W`). -/
abbrev Byte := BitVec 8

/-- Sixteen bits: I, PC, a stack slot, an opcode (R5, `ADDR_REG_W`; R90). -/
abbrev Word := BitVec 16

/-- The 4-bit number of a general register, the `x` or `y` field of an opcode (R91). -/
abbrev RegIx := BitVec 4

/-- A logical key index 0x0 to 0xF (R12). -/
abbrev Key := BitVec 4

/-- The 12-bit immediate `nnn` of an opcode (R91). -/
abbrev Imm12 := BitVec 12

end Sys2Proof
end

