-- ==== Sys2Proof/Syntax.lean ====
section
/-! DEFINITION. The 34 instructions of spec/30_encoding.md R93, one constructor per row of spec/opcode_table.json, in the
table's order. Operands are the fields of R91. -/

namespace Sys2Proof

/-- An instruction. `x`, `y` are register numbers, `kk` an 8-bit and `nnn` a 12-bit immediate, all used zero-extended
(R94). The row count `n` of `Dxyn` is a count, hence a number; `Instr.wellFormed` bounds it by its 4-bit field. -/
inductive Instr where
  /-- `00E0` clear the framebuffer (R160). -/
  | cls
  /-- `00EE` return from subroutine (R120). -/
  | ret
  /-- `1nnn` jump (R121). -/
  | jp (nnn : Imm12)
  /-- `2nnn` call subroutine (R122). -/
  | call (nnn : Imm12)
  /-- `3xkk` skip if register equals immediate (R123). -/
  | seImm (x : RegIx) (kk : Byte)
  /-- `4xkk` skip if register differs from immediate (R124). -/
  | sneImm (x : RegIx) (kk : Byte)
  /-- `5xy0` skip if registers equal (R125). -/
  | seReg (x y : RegIx)
  /-- `6xkk` load immediate (R130). -/
  | ldImm (x : RegIx) (kk : Byte)
  /-- `7xkk` add immediate (R131). -/
  | addImm (x : RegIx) (kk : Byte)
  /-- `8xy0` copy (R132). -/
  | ldReg (x y : RegIx)
  /-- `8xy1` bitwise OR (R133). -/
  | orReg (x y : RegIx)
  /-- `8xy2` bitwise AND (R134). -/
  | andReg (x y : RegIx)
  /-- `8xy3` bitwise exclusive OR (R135). -/
  | xorReg (x y : RegIx)
  /-- `8xy4` add with carry out (R136). -/
  | addReg (x y : RegIx)
  /-- `8xy5` subtract, `Vx` minus `Vy` (R137). -/
  | sub (x y : RegIx)
  /-- `8xy6` shift `Vx` right one bit; `y` is decoded and ignored (R138, R98). -/
  | shr (x y : RegIx)
  /-- `8xy7` reverse subtract, `Vy` minus `Vx` (R139). -/
  | subn (x y : RegIx)
  /-- `8xyE` shift `Vx` left one bit; `y` is decoded and ignored (R140, R98). -/
  | shl (x y : RegIx)
  /-- `9xy0` skip if registers differ (R126). -/
  | sneReg (x y : RegIx)
  /-- `Annn` load index immediate (R150). -/
  | ldI (nnn : Imm12)
  /-- `Bnnn` jump with offset V0 (R127). -/
  | jpV0 (nnn : Imm12)
  /-- `Cxkk` masked random byte (R143). -/
  | rnd (x : RegIx) (kk : Byte)
  /-- `Dxyn` draw a sprite of `n` rows (R161). -/
  | drw (x y : RegIx) (n : Nat)
  /-- `Ex9E` skip if the key named by `Vx` is down (R170). -/
  | skp (x : RegIx)
  /-- `ExA1` skip if the key named by `Vx` is not down (R171). -/
  | sknp (x : RegIx)
  /-- `Fx07` read the delay timer (R180). -/
  | ldVxDt (x : RegIx)
  /-- `Fx0A` wait for a key press (R172). -/
  | ldVxK (x : RegIx)
  /-- `Fx15` set the delay timer (R181). -/
  | ldDtVx (x : RegIx)
  /-- `Fx18` set the sound timer (R182). -/
  | ldStVx (x : RegIx)
  /-- `Fx1E` add register to index (R151). -/
  | addIVx (x : RegIx)
  /-- `Fx29` point index at a glyph (R152). -/
  | ldFVx (x : RegIx)
  /-- `Fx33` store binary-coded decimal (R153). -/
  | ldBVx (x : RegIx)
  /-- `Fx55` store `V0` to `Vx` (R154). -/
  | stRegs (x : RegIx)
  /-- `Fx65` load `V0` to `Vx` (R155). -/
  | ldRegs (x : RegIx)
  deriving DecidableEq, Repr

end Sys2Proof
end

