-- ==== Sys2Proof/Decode.lean ====
section
/-! DEFINITION. Decoding and encoding of opcodes (spec/30_encoding.md), and the opcode map of R93 as a table. The decoder
is total: an opcode that matches no row is rejected by name. -/

namespace Sys2Proof

/-- Why the decoder gives no instruction. -/
inductive Reject where
  /-- The opcode matches no row of R93 (R96). No error of the machine: TICK makes it a logged no-op (R97, R113). -/
  | unassigned (op : Word)
  /-- Fewer than two bytes were given; the machine's fetch never does that (R90). -/
  | truncated
  deriving DecidableEq, Repr

/-! ## Fields (R91) -/

/-- `top = op[15:12]`. -/
def fieldTop (op : Word) : BitVec 4 := op.extractLsb' 12 4
/-- `x = op[11:8]`. -/
def fieldX (op : Word) : RegIx := op.extractLsb' 8 4
/-- `y = op[7:4]`. -/
def fieldY (op : Word) : RegIx := op.extractLsb' 4 4
/-- `n = op[3:0]`. -/
def fieldN (op : Word) : BitVec 4 := op.extractLsb' 0 4
/-- `kk = op[7:0]`. -/
def fieldKK (op : Word) : Byte := op.extractLsb' 0 8
/-- `nnn = op[11:0]`. -/
def fieldNNN (op : Word) : Imm12 := op.extractLsb' 0 12

/-! ## Decoding (R95): dispatch on the top nibble, then on every other fixed digit (D4) -/

/-- Group 0: both patterns fix all 16 bits. -/
def decode0 (op : Word) : Except Reject Instr :=
  if op = 0x00E0#16 then .ok .cls
  else if op = 0x00EE#16 then .ok .ret
  else .error (.unassigned op)

/-- Group 8: the arithmetic family, selected by the low nibble. -/
def decode8 (op : Word) : Except Reject Instr :=
  let x := fieldX op
  let y := fieldY op
  if fieldN op = 0x0#4 then .ok (.ldReg x y)
  else if fieldN op = 0x1#4 then .ok (.orReg x y)
  else if fieldN op = 0x2#4 then .ok (.andReg x y)
  else if fieldN op = 0x3#4 then .ok (.xorReg x y)
  else if fieldN op = 0x4#4 then .ok (.addReg x y)
  else if fieldN op = 0x5#4 then .ok (.sub x y)
  else if fieldN op = 0x6#4 then .ok (.shr x y)
  else if fieldN op = 0x7#4 then .ok (.subn x y)
  else if fieldN op = 0xE#4 then .ok (.shl x y)
  else .error (.unassigned op)

/-- Group E: the two key skips, selected by the low byte. -/
def decodeE (op : Word) : Except Reject Instr :=
  if fieldKK op = 0x9E#8 then .ok (.skp (fieldX op))
  else if fieldKK op = 0xA1#8 then .ok (.sknp (fieldX op))
  else .error (.unassigned op)

/-- Group F: the input, timer, index and BCD family, selected by the low byte. -/
def decodeF (op : Word) : Except Reject Instr :=
  let x := fieldX op
  if fieldKK op = 0x07#8 then .ok (.ldVxDt x)
  else if fieldKK op = 0x0A#8 then .ok (.ldVxK x)
  else if fieldKK op = 0x15#8 then .ok (.ldDtVx x)
  else if fieldKK op = 0x18#8 then .ok (.ldStVx x)
  else if fieldKK op = 0x1E#8 then .ok (.addIVx x)
  else if fieldKK op = 0x29#8 then .ok (.ldFVx x)
  else if fieldKK op = 0x33#8 then .ok (.ldBVx x)
  else if fieldKK op = 0x55#8 then .ok (.stRegs x)
  else if fieldKK op = 0x65#8 then .ok (.ldRegs x)
  else .error (.unassigned op)

/-- The instruction of an opcode (R93, R95). -/
def decode (op : Word) : Except Reject Instr :=
  match (fieldTop op).toNat with
  | 0x0 => decode0 op
  | 0x1 => .ok (.jp (fieldNNN op))
  | 0x2 => .ok (.call (fieldNNN op))
  | 0x3 => .ok (.seImm (fieldX op) (fieldKK op))
  | 0x4 => .ok (.sneImm (fieldX op) (fieldKK op))
  | 0x5 => if fieldN op = 0x0#4 then .ok (.seReg (fieldX op) (fieldY op)) else .error (.unassigned op)
  | 0x6 => .ok (.ldImm (fieldX op) (fieldKK op))
  | 0x7 => .ok (.addImm (fieldX op) (fieldKK op))
  | 0x8 => decode8 op
  | 0x9 => if fieldN op = 0x0#4 then .ok (.sneReg (fieldX op) (fieldY op)) else .error (.unassigned op)
  | 0xA => .ok (.ldI (fieldNNN op))
  | 0xB => .ok (.jpV0 (fieldNNN op))
  | 0xC => .ok (.rnd (fieldX op) (fieldKK op))
  | 0xD => .ok (.drw (fieldX op) (fieldY op) (fieldN op).toNat)
  | 0xE => decodeE op
  | _ => decodeF op

/-- An opcode in memory: two bytes, the high byte at the lower address (R61, R90). -/
def opcodeOfBytes (hi lo : Byte) : Word := hi ++ lo

/-- Decode the first instruction of a byte sequence; answer it with the bytes after it. -/
def decodeBytes : List Byte → Except Reject (Instr × List Byte)
  | hi :: lo :: rest => (decode (opcodeOfBytes hi lo)).map (fun i => (i, rest))
  | [_] | [] => .error .truncated

/-! ## Encoding: the pattern strings of R92 and R93, field by field -/

/-- The opcode of an instruction (R93). For `Dxyn` the row count is cut to its 4-bit field. -/
def encode : Instr → Word
  | .cls => 0x00E0#16
  | .ret => 0x00EE#16
  | .jp nnn => 0x1#4 ++ nnn
  | .call nnn => 0x2#4 ++ nnn
  | .seImm x kk => 0x3#4 ++ x ++ kk
  | .sneImm x kk => 0x4#4 ++ x ++ kk
  | .seReg x y => 0x5#4 ++ x ++ y ++ 0x0#4
  | .ldImm x kk => 0x6#4 ++ x ++ kk
  | .addImm x kk => 0x7#4 ++ x ++ kk
  | .ldReg x y => 0x8#4 ++ x ++ y ++ 0x0#4
  | .orReg x y => 0x8#4 ++ x ++ y ++ 0x1#4
  | .andReg x y => 0x8#4 ++ x ++ y ++ 0x2#4
  | .xorReg x y => 0x8#4 ++ x ++ y ++ 0x3#4
  | .addReg x y => 0x8#4 ++ x ++ y ++ 0x4#4
  | .sub x y => 0x8#4 ++ x ++ y ++ 0x5#4
  | .shr x y => 0x8#4 ++ x ++ y ++ 0x6#4
  | .subn x y => 0x8#4 ++ x ++ y ++ 0x7#4
  | .shl x y => 0x8#4 ++ x ++ y ++ 0xE#4
  | .sneReg x y => 0x9#4 ++ x ++ y ++ 0x0#4
  | .ldI nnn => 0xA#4 ++ nnn
  | .jpV0 nnn => 0xB#4 ++ nnn
  | .rnd x kk => 0xC#4 ++ x ++ kk
  | .drw x y n => 0xD#4 ++ x ++ y ++ BitVec.ofNat 4 n
  | .skp x => 0xE#4 ++ x ++ 0x9E#8
  | .sknp x => 0xE#4 ++ x ++ 0xA1#8
  | .ldVxDt x => 0xF#4 ++ x ++ 0x07#8
  | .ldVxK x => 0xF#4 ++ x ++ 0x0A#8
  | .ldDtVx x => 0xF#4 ++ x ++ 0x15#8
  | .ldStVx x => 0xF#4 ++ x ++ 0x18#8
  | .addIVx x => 0xF#4 ++ x ++ 0x1E#8
  | .ldFVx x => 0xF#4 ++ x ++ 0x29#8
  | .ldBVx x => 0xF#4 ++ x ++ 0x33#8
  | .stRegs x => 0xF#4 ++ x ++ 0x55#8
  | .ldRegs x => 0xF#4 ++ x ++ 0x65#8

/-- The two bytes of an instruction as they stand in memory, lowest address first (R61). -/
def encodeBytes (i : Instr) : List Byte :=
  [(encode i).extractLsb' 8 8, (encode i).extractLsb' 0 8]

/-! ## The opcode map of R93 as a table of masks and matches -/

/-- One row of R93: an opcode `op` is the row's instruction exactly when `op AND mask = match`. -/
structure OpcodeRow where
  /-- The row's name in spec/opcode_table.json (R100). -/
  mnemonic : String
  mask : Word
  pattern : Word
  deriving DecidableEq, Repr

/-- Rows 1 to 19 of R93 that stand outside group 8. -/
def opcodeRowsLow : List OpcodeRow := [
  ⟨"CLS", 0xFFFF, 0x00E0⟩, ⟨"RET", 0xFFFF, 0x00EE⟩, ⟨"JP", 0xF000, 0x1000⟩, ⟨"CALL", 0xF000, 0x2000⟩,
  ⟨"SE_IMM", 0xF000, 0x3000⟩, ⟨"SNE_IMM", 0xF000, 0x4000⟩, ⟨"SE_REG", 0xF00F, 0x5000⟩,
  ⟨"LD_IMM", 0xF000, 0x6000⟩, ⟨"ADD_IMM", 0xF000, 0x7000⟩, ⟨"SNE_REG", 0xF00F, 0x9000⟩]

/-- Rows 10 to 18 of R93: group 8. -/
def opcodeRowsArith : List OpcodeRow := [
  ⟨"LD_REG", 0xF00F, 0x8000⟩, ⟨"OR", 0xF00F, 0x8001⟩, ⟨"AND", 0xF00F, 0x8002⟩, ⟨"XOR", 0xF00F, 0x8003⟩,
  ⟨"ADD_REG", 0xF00F, 0x8004⟩, ⟨"SUB", 0xF00F, 0x8005⟩, ⟨"SHR", 0xF00F, 0x8006⟩, ⟨"SUBN", 0xF00F, 0x8007⟩,
  ⟨"SHL", 0xF00F, 0x800E⟩]

/-- Rows 20 to 34 of R93. -/
def opcodeRowsHigh : List OpcodeRow := [
  ⟨"LD_I", 0xF000, 0xA000⟩, ⟨"JP_V0", 0xF000, 0xB000⟩, ⟨"RND", 0xF000, 0xC000⟩, ⟨"DRW", 0xF000, 0xD000⟩,
  ⟨"SKP", 0xF0FF, 0xE09E⟩, ⟨"SKNP", 0xF0FF, 0xE0A1⟩, ⟨"LD_VX_DT", 0xF0FF, 0xF007⟩, ⟨"LD_VX_K", 0xF0FF, 0xF00A⟩,
  ⟨"LD_DT_VX", 0xF0FF, 0xF015⟩, ⟨"LD_ST_VX", 0xF0FF, 0xF018⟩, ⟨"ADD_I_VX", 0xF0FF, 0xF01E⟩,
  ⟨"LD_F_VX", 0xF0FF, 0xF029⟩, ⟨"LD_B_VX", 0xF0FF, 0xF033⟩, ⟨"ST_REGS", 0xF0FF, 0xF055⟩,
  ⟨"LD_REGS", 0xF0FF, 0xF065⟩]

/-- The complete instruction set, 34 rows (R93). -/
def opcodeTable : List OpcodeRow := opcodeRowsLow ++ opcodeRowsArith ++ opcodeRowsHigh

/-- `op` is the instruction of row `r` (R93). -/
def OpcodeRow.matches (r : OpcodeRow) (op : Word) : Bool := op &&& r.mask == r.pattern

/-- The name of an instruction's row (R100, spec/opcode_table.json). -/
def Instr.mnemonic : Instr → String
  | .cls => "CLS" | .ret => "RET" | .jp _ => "JP" | .call _ => "CALL"
  | .seImm _ _ => "SE_IMM" | .sneImm _ _ => "SNE_IMM" | .seReg _ _ => "SE_REG"
  | .ldImm _ _ => "LD_IMM" | .addImm _ _ => "ADD_IMM" | .ldReg _ _ => "LD_REG"
  | .orReg _ _ => "OR" | .andReg _ _ => "AND" | .xorReg _ _ => "XOR"
  | .addReg _ _ => "ADD_REG" | .sub _ _ => "SUB" | .shr _ _ => "SHR" | .subn _ _ => "SUBN" | .shl _ _ => "SHL"
  | .sneReg _ _ => "SNE_REG" | .ldI _ => "LD_I" | .jpV0 _ => "JP_V0" | .rnd _ _ => "RND" | .drw _ _ _ => "DRW"
  | .skp _ => "SKP" | .sknp _ => "SKNP" | .ldVxDt _ => "LD_VX_DT" | .ldVxK _ => "LD_VX_K"
  | .ldDtVx _ => "LD_DT_VX" | .ldStVx _ => "LD_ST_VX" | .addIVx _ => "ADD_I_VX" | .ldFVx _ => "LD_F_VX"
  | .ldBVx _ => "LD_B_VX" | .stRegs _ => "ST_REGS" | .ldRegs _ => "LD_REGS"

/-- The host's question about a table word: bit 0 of `w` is the least significant bit of the opcode, bits from `nbits` up
are 0. The opcode's two bytes are laid out high byte first (R61) and given to the decoder. -/
def decodeTableWord (nbits w : Nat) : Option Instr :=
  let op : Word := BitVec.ofNat 16 (w % 2 ^ nbits)
  match decodeBytes [op.extractLsb' 8 8, op.extractLsb' 0 8] with
  | .ok (i, _) => some i
  | .error _ => none

end Sys2Proof
end

