-- ==== Sys2Proof/Config.lean ====
section
/-! DEFINITION. What is fixed for the machine: the fixed parameters of spec/00_scope.md R5 that the model names, and the
one free value, the random stream of R6. The other two open parameters of R6 are carried otherwise: GLYPHS as data in
`Machine.Memory.glyphs` (log entry 2), KEYMAP as an argument of `Machine.mapRawKey` (log entry 17). -/

namespace Sys2Proof.Config

/-- `MEM_SIZE` (R5): bytes of memory. -/
abbrev memSize : Nat := 4096

/-- `PROG_BASE` (R5): where LOAD puts an image. -/
abbrev progBase : Nat := 0x200

/-- The reset value of PC, the program load offset (R24, R38). -/
abbrev resetPc : Word := 0x0200#16

/-- `STACK_DEPTH` (R5): call-stack slots. -/
abbrev stackDepth : Nat := 16

/-- `FB_W` (R5): framebuffer columns. -/
abbrev fbWidth : Nat := 64

/-- `FB_H` (R5): framebuffer rows. -/
abbrev fbHeight : Nat := 32

/-- `INSN_BYTES` (R5): bytes per instruction. -/
abbrev insnBytes : Word := 2#16

/-- `RNG_STREAM` (R6, R34, D12): the infinite sequence of random bytes. A FREE VALUE: it has no body, so nothing about a
byte of it can be proved and a theorem holds for every stream (log entry 3). -/
opaque rngStream : Nat → Byte

end Sys2Proof.Config
end

