-- ==== Sys2Proof/Machine/Glyphs.lean ====
section
/-! DEFINITION. The glyph table GLYPHS (spec/00_scope.md R6, spec/10_state.md R36, R37). -/

namespace Sys2Proof.Machine

/-- `GLYPHS`: for each digit 0x0 to 0xF its five bytes, top row first (R6: 16 x 5 bytes). -/
abbrev GlyphTable := Vector (Vector Byte 5) 16

/-- `GLYPH_HEIGHT` (R5): bytes per glyph. -/
def glyphHeight : Nat := 5

/-- PRESUMED (the spec offers it as the default, from general knowledge, R37): the conventional hexadecimal font. Only
`State.reset` uses it; statements about states leave the table open (log entry 2). Unsafe for a claim about a run from
`State.reset` that reads a glyph byte. -/
def conventionalFont : GlyphTable := #v[
  #v[0xF0, 0x90, 0x90, 0x90, 0xF0], #v[0x20, 0x60, 0x20, 0x20, 0x70],
  #v[0xF0, 0x10, 0xF0, 0x80, 0xF0], #v[0xF0, 0x10, 0xF0, 0x10, 0xF0],
  #v[0x90, 0x90, 0xF0, 0x10, 0x10], #v[0xF0, 0x80, 0xF0, 0x10, 0xF0],
  #v[0xF0, 0x80, 0xF0, 0x90, 0xF0], #v[0xF0, 0x10, 0x20, 0x40, 0x40],
  #v[0xF0, 0x90, 0xF0, 0x90, 0xF0], #v[0xF0, 0x90, 0xF0, 0x10, 0xF0],
  #v[0xF0, 0x90, 0xF0, 0x90, 0x90], #v[0xE0, 0x90, 0xE0, 0x90, 0xE0],
  #v[0xF0, 0x80, 0x80, 0x80, 0xF0], #v[0xE0, 0x90, 0x90, 0x90, 0xE0],
  #v[0xF0, 0x80, 0xF0, 0x80, 0xF0], #v[0xF0, 0x80, 0xF0, 0x80, 0x80]]

/-- What address `a` holds after reset under the glyph table `g`: byte `r` of digit `d` at `d * 5 + r`, and 0x00 from 0x050
up (R36; the fill is the spec's choice D13, log entry 4). -/
def resetByte (g : GlyphTable) (a : Nat) : Byte :=
  if h : a < 80 then (g[a / 5])[a % 5] else 0x00#8

end Sys2Proof.Machine
end

