-- ==== Sys2Proof/Machine/State.lean ====
section
/-! DEFINITION. The state of the core (spec/10_state.md R20), what the host sees of it, and the state after reset
(R36, R38). Plain data throughout. -/

namespace Sys2Proof.Machine

/-- Why a step stops. Nothing the spec gives an effect stops one: the spec's own faults are results (`FaultCode`). -/
inductive Fault where
  /-- Raised by `execCall` and `execRet` in a state whose SP lies outside 0 to 16, where the stack has no slot to use.
  R26: no such value is reachable. Safe: the machine stops, and no state of a run is shut out (log entry 6). -/
  | stackPointerRange
  deriving DecidableEq, Repr

/-- Why an instruction has no meaning. -/
inductive Refusal where
  /-- An instruction without a meaning yet, rejected by name in `exec`'s arm; none is left. Safe. -/
  | notModelled (mnemonic : String)
  deriving DecidableEq, Repr

/-- The faults of the spec's taxonomy (60_exceptions.md R211). A fault is the value a transaction returns; the core goes on
(R210, R216). -/
inductive FaultCode where
  /-- Raised by nothing (R215). -/
  | outOfBoundsAccess
  /-- `2nnn` with SP = 16 (R212). -/
  | stackOverflow
  /-- `00EE` with SP = 0 (R213). -/
  | stackUnderflow
  /-- LOAD of an image longer than 3584 bytes (R214). -/
  | capacityExceeded
  /-- CANCEL of a pending key wait (R218). -/
  | waitCancelled
  deriving DecidableEq, Repr

/-- The code of a fault (R211, D16). -/
def FaultCode.code : FaultCode → Nat
  | .outOfBoundsAccess => 1
  | .stackOverflow => 2
  | .stackUnderflow => 3
  | .capacityExceeded => 4
  | .waitCancelled => 5

/-- `MODE`, the run mode (R33). -/
inductive Mode where
  | run
  /-- An `Fx0A` with register field `x` waits for a key. -/
  | waitKey (x : RegIx)
  | cancelled
  deriving DecidableEq, Repr

/-- A record of the log output; there is one kind (R232). -/
inductive LogRecord where
  /-- The unassigned opcode `op` was fetched from address `a`. -/
  | unassignedOpcode (op a : Word)
  deriving DecidableEq, Repr

/-- What the host can do to the core (R11, R199). `none` is the sentinel NONE of R192, R193. -/
inductive Transaction where
  /-- R250. -/
  | reset
  /-- R191. -/
  | load (bytes : List Byte)
  /-- R110. -/
  | tick
  /-- R192. -/
  | keyDown (k : Option Key)
  /-- R193. -/
  | keyUp (k : Option Key)
  /-- R194. -/
  | timerDec
  /-- R195. -/
  | cancel
  /-- R196. -/
  | fbQuery (x y : Nat)
  /-- R197. -/
  | timerPoll
  deriving DecidableEq, Repr

/-- What a transaction returns to the host (R112, R199, R210). -/
inductive Result where
  /-- The transaction gives nothing back (RESET, KEY_DOWN, KEY_UP, TIMER_DEC). -/
  | nothing
  /-- `Ok`. -/
  | ok
  /-- `Waiting`: a TICK that entered, or found, the key wait. -/
  | waiting
  /-- `Nop(op)`: a TICK that fetched the unassigned opcode `op`. -/
  | nop (op : Word)
  /-- `Fault(F)`, and `WaitCancelled` of CANCEL. -/
  | fault (f : FaultCode)
  /-- `Cancelled`: a TICK in a cancelled core. -/
  | cancelled
  /-- The bit FB_QUERY returns. -/
  | pixel (on : Bool)
  /-- The pair TIMER_POLL returns. -/
  | timers (dt st : Byte)
  deriving DecidableEq, Repr

/-- `MEM`: the bytes that differ from their reset values, by strictly rising address, over the glyph table the machine was
reset with (R30, R36; `glyphs` is the parameter GLYPHS, which nothing changes, log entry 2). -/
structure Memory where
  glyphs : GlyphTable
  cells : List Host.Cell
  deriving DecidableEq, Repr

/-- `FB`: 32 rows of 64 bits; bit `x` of row `y` is the pixel in column `x` (R31; log entry 22). -/
abbrev Framebuffer := Vector (BitVec 64) 32

/-- The state of the core, R20 row by row, and then the model's own record of what the host sent and received. -/
structure State where
  /-- `V[0]` to `V[15]` (R21); `V[15]` is VF (R22). -/
  regs : Vector Byte 16
  /-- The index register `I` (R23). -/
  i : Word
  /-- The program counter (R24). -/
  pc : Word
  /-- The stack pointer, the call depth, legally 0 to 16 (R26). -/
  sp : Byte
  /-- The delay timer (R28). -/
  dt : Byte
  /-- The sound timer (R29). -/
  st : Byte
  /-- `STACK[0]` to `STACK[15]` (R27). -/
  stack : Vector Word 16
  /-- `MEM` (R30). -/
  mem : Memory
  /-- `FB` (R31). -/
  fb : Framebuffer
  /-- `KEYS`: bit `k` is set when logical key `k` is down (R32). -/
  keys : BitVec 16
  /-- `MODE` (R33). -/
  mode : Mode
  /-- `RNGPOS`: random bytes consumed so far (R34). -/
  rngPos : Nat
  /-- The model's own: what the latest transaction returned (R112, R210; log entry 5). -/
  result : Result
  /-- The model's own run record: the faults returned so far, oldest first (R216; log entry 5). -/
  faults : List FaultCode
  /-- The log output, oldest record first (R232; log entry 15). -/
  log : List LogRecord
  /-- The model's own: the host's transactions still to come, next first; when empty, the host issues TICKs (log entry 1). -/
  inbox : List Transaction
  deriving DecidableEq, Repr

/-- The state after RESET of a core whose glyph table is `g` (R38, R250), nothing returned, logged or queued yet. -/
def State.resetWith (g : GlyphTable) : State where
  regs := Vector.replicate 16 0x00#8
  i := 0x0000#16
  pc := Config.resetPc
  sp := 0#8
  dt := 0x00#8
  st := 0x00#8
  stack := Vector.replicate 16 0x0000#16
  mem := ⟨g, []⟩
  fb := Vector.replicate 32 0#64
  keys := 0#16
  mode := .run
  rngPos := 0
  result := .nothing
  faults := []
  log := []
  inbox := []

/-- The machine right after reset (R38), with the glyph table the spec offers as the default (R37; log entry 2). -/
def State.reset : State := State.resetWith conventionalFont

/-- The outcome of a step or of a meaning. -/
abbrev Outcome := Host.Outcome State Fault Refusal

end Sys2Proof.Machine
end

