-- ==== Sys2Proof/Machine/Ops.lean ====
section
/-! DEFINITION. The named operations over memory, registers, the call stack and the framebuffer, how an instruction
ends, and raising a fault (spec/10_state.md, spec/20_memory.md, spec/60_exceptions.md). -/

namespace Sys2Proof.Machine

/-! ## Memory: 4096 bytes, every address reduced at use (R30, R60) -/

/-- What an address that no cell lists reads as: its byte after reset (R36). -/
def Memory.unlisted (m : Memory) (a : Nat) : Byte := resetByte m.glyphs a

/-- The byte listed for an address, if there is one. -/
def cellsLookup : List Host.Cell → Nat → Option Byte
  | [], _ => none
  | (b, w) :: rest, a => if a = b then some w else cellsLookup rest a

/-- List the byte `v` for address `a`, in rising order of addresses. -/
def cellsInsert : List Host.Cell → Nat → Byte → List Host.Cell
  | [], a, v => [(a, v)]
  | (b, w) :: rest, a, v =>
    if a < b then (a, v) :: (b, w) :: rest
    else if a = b then (a, v) :: rest
    else (b, w) :: cellsInsert rest a v

/-- List nothing for address `a`. -/
def cellsErase (cells : List Host.Cell) (a : Nat) : List Host.Cell :=
  cells.filter (fun c => c.1 ≠ a)

/-- The byte at an index of the memory array. -/
def Memory.readAt (m : Memory) (a : Nat) : Byte := (cellsLookup m.cells a).getD (m.unlisted a)

/-- Store a byte at an index of the memory array, keeping the canonical form. -/
def Memory.writeAt (m : Memory) (a : Nat) (v : Byte) : Memory :=
  { m with cells := if v = m.unlisted a then cellsErase m.cells a else cellsInsert m.cells a v }

/-- `MemRead(a, 1)` (R8, R60). -/
def Memory.read (m : Memory) (a : Nat) : Byte := m.readAt (a % Config.memSize)

/-- `MemWrite(a, 1, v)` (R8, R60). -/
def Memory.write (m : Memory) (a : Nat) (v : Byte) : Memory := m.writeAt (a % Config.memSize) v

/-- The `n` bytes from `a` up, in order (R64). -/
def Memory.readBytes (m : Memory) (a : Nat) : Nat → List Byte
  | 0 => []
  | n + 1 => m.read a :: m.readBytes (a + 1) n

/-- Store bytes at `a`, `a + 1`, ..., in order (R64). -/
def Memory.writeBytes (m : Memory) (a : Nat) : List Byte → Memory
  | [] => m
  | v :: rest => (m.write a v).writeBytes (a + 1) rest

/-- The canonical form: addresses strictly rising and inside the memory, no byte listed that would be read anyway. -/
abbrev Memory.wf (m : Memory) : Prop :=
  m.cells.Pairwise (fun c d => c.1 < d.1) ∧ ∀ c ∈ m.cells, c.1 < Config.memSize ∧ c.2 ≠ m.unlisted c.1

/-- The instruction fetch `MemRead(PC, 2)`, big-endian, addresses modulo 4096 (R61, R63). -/
def State.fetch (s : State) : Word := s.mem.read s.pc.toNat ++ s.mem.read (s.pc.toNat + 1)

/-! ## General registers (R21) -/

/-- `V[x]`. -/
def State.getV (s : State) (x : RegIx) : Byte := s.regs[x.toNat]

/-- `V[x] <- b`. -/
def State.setV (s : State) (x : RegIx) (b : Byte) : State := { s with regs := s.regs.set x.toNat b }

/-- The number of the flags register VF (R22). -/
def vf : RegIx := 15#4

/-- `V[0]` to `V[n - 1]`, ascending. -/
def State.firstRegs (s : State) (n : Nat) : List Byte := s.regs.toList.take n

/-- Write bytes to `V[k]`, `V[k + 1]`, ..., ascending; past `V[15]` there is no register. -/
def State.setRegsFrom (s : State) (k : Nat) : List Byte → State
  | [] => s
  | b :: rest => (if k < 16 then s.setV (BitVec.ofNat 4 k) b else s).setRegsFrom (k + 1) rest

/-! ## The program counter (R25) -/

/-- `PC <- trunc_16(PC + 2)`: the advance every TICK makes, and a skip once more (R25, R129). -/
def State.advance (s : State) : State := { s with pc := s.pc + Config.insnBytes }

/-- A conditional skip of one instruction (R129). -/
def State.skipIf (s : State) (cond : Bool) : State := if cond then s.advance else s

/-! ## How an instruction or transaction ends (R112, R210) -/

/-- The transaction returns `r`. -/
def State.returns (s : State) (r : Result) : State := { s with result := r }

/-- An instruction that completed: result `Ok`. -/
def finish (s : State) : Outcome := .next (s.returns .ok)

/-- `raise F` (R8): TAKING A FAULT, the one shared operation for it. The transaction returns `Fault(F)`; nothing is saved, no
mode changes, control goes nowhere; PC keeps the advance made before dispatch (R216, R222). The run record gains `F`. There is
no return from a fault (R223): the next TICK executes the next instruction. -/
def raise (f : FaultCode) (s : State) : Outcome :=
  .next { s with result := .fault f, faults := s.faults ++ [f] }

/-! ## The call stack (R27) -/

/-- What a push or a pop ends in when it does not succeed. -/
inductive StackStop where
  /-- The spec's own fault. -/
  | raised (f : FaultCode)
  /-- SP is outside 0 to 16 (log entry 6). -/
  | outside
  deriving DecidableEq, Repr

/-- `push(a)` (R27): a full stack raises `StackOverflow` and changes nothing. -/
def push (a : Word) (s : State) : Except StackStop State :=
  if h : s.sp.toNat < Config.stackDepth then
    .ok { s with stack := s.stack.set s.sp.toNat a, sp := s.sp + 1#8 }
  else if s.sp = 16#8 then .error (.raised .stackOverflow)
  else .error .outside

/-- `pop()` (R27): an empty stack raises `StackUnderflow` and changes nothing; the slot is not erased. -/
def pop (s : State) : Except StackStop (State × Word) :=
  if s.sp = 0#8 then .error (.raised .stackUnderflow)
  else if h : (s.sp - 1#8).toNat < Config.stackDepth then
    .ok ({ s with sp := s.sp - 1#8 }, s.stack[(s.sp - 1#8).toNat])
  else .error .outside

/-- How CALL or RET ends when its push or pop did not succeed. -/
def stackStop (s : State) : StackStop → Outcome
  | .raised f => raise f s
  | .outside => .fault .stackPointerRange

/-! ## The framebuffer (R31) -/

/-- `FB[y mod 32][x mod 64]`. -/
def Framebuffer.get (fb : Framebuffer) (x y : Nat) : Bool :=
  (fb[y % 32]'(Nat.mod_lt y (by decide))).getLsbD (x % Config.fbWidth)

/-- Toggle `FB[y mod 32][x mod 64]`. -/
def Framebuffer.toggle (fb : Framebuffer) (x y : Nat) : Framebuffer :=
  fb.set (y % 32)
    ((fb[y % 32]'(Nat.mod_lt y (by decide))) ^^^ BitVec.twoPow 64 (x % Config.fbWidth)) (Nat.mod_lt y (by decide))

/-- All cells off. -/
def Framebuffer.blank : Framebuffer := Vector.replicate 32 0#64

/-- One sprite bit at column `x`, row `y`: a 1 toggles the cell and is a collision if the cell was set; a 0 does nothing (R161). -/
def drawBit (x y : Nat) (on : Bool) (d : Framebuffer × Bool) : Framebuffer × Bool :=
  if on then (d.1.toggle x y, d.2 || d.1.get x y) else d

/-- One sprite row: bit 7 of the byte at column `x0`, bit 0 at `x0 + 7` (R161; the bit order is the spec's choice D7, log
entry 10). -/
def drawRow (x0 y : Nat) (b : Byte) (d : Framebuffer × Bool) : Framebuffer × Bool :=
  (List.range 8).foldl (fun d c => drawBit (x0 + c) y (b.getLsbD (7 - c)) d) d

/-- A sprite: its bytes go to successive rows from `y0` down (R161). -/
def drawRows (x0 : Nat) : Nat → List Byte → Framebuffer × Bool → Framebuffer × Bool
  | _, [], d => d
  | y, b :: rest, d => drawRows x0 (y + 1) rest (drawRow x0 y b d)

/-- Draw a sprite; answer the framebuffer and whether a set cell was cleared (R161). -/
def drawSprite (fb : Framebuffer) (x0 y0 : Nat) (bytes : List Byte) : Framebuffer × Bool :=
  drawRows x0 y0 bytes (fb, false)

/-! ## Keys (R32) -/

/-- `v in KEYS`: a value of 16 or more is never a member (R170, D8). -/
def State.keyHeld (s : State) (v : Byte) : Bool := s.keys.getLsbD v.toNat

/-- `KEYS ∪ {k}`. -/
def pressKey (keys : BitVec 16) (k : Key) : BitVec 16 := keys ||| BitVec.twoPow 16 k.toNat

/-- `KEYS \ {k}`. -/
def releaseKey (keys : BitVec 16) (k : Key) : BitVec 16 := keys &&& ~~~ BitVec.twoPow 16 k.toNat

/-! ## The random stream (R34) -/

/-- `RNG_STREAM(RNGPOS)`: the byte the next `Cxkk` draws; a free value (log entry 3). -/
def State.randomByte (s : State) : Byte := Config.rngStream s.rngPos

end Sys2Proof.Machine
end

