-- ==== Sys2Proof/Machine/Operands.lean ====
section
/-! DEFINITION. The operand forms (spec/30_encoding.md R94, spec/43_index_memory.md R156) beyond the plain registers of
Ops. -/

namespace Sys2Proof.Machine

/-- The immediate `nnn` as a 16-bit value: zero-extended (R94). -/
def immWord (nnn : Imm12) : Word := nnn.setWidth 16

/-- A register's value as a 16-bit value: zero-extended (R127, R151, R152). -/
def byteWord (b : Byte) : Word := b.setWidth 16

/-- A logical key as the byte a register receives: zero-extended (R172). -/
def keyByte (k : Key) : Byte := k.setWidth 8

/-- The target of `Bnnn`: `trunc_16(V[0] + nnn)` (R127). -/
def State.offsetTarget (s : State) (nnn : Imm12) : Word := byteWord (s.getV 0#4) + immWord nnn

/-- The address of the glyph of digit `v`: `v * 5` on the whole byte (R152; not masked, D25). -/
def glyphAddress (v : Byte) : Word := BitVec.ofNat 16 (v.toNat * glyphHeight)

/-- The three decimal digits of a byte: hundreds, tens, ones, one byte each (R153). -/
def bcdDigits (v : Byte) : List Byte :=
  [BitVec.ofNat 8 (v.toNat / 100), BitVec.ofNat 8 (v.toNat / 10 % 10), BitVec.ofNat 8 (v.toNat % 10)]

/-- How many registers `Fx55` and `Fx65` move: `V[0]` to `V[x]` (R154, R155). -/
def regCount (x : RegIx) : Nat := x.toNat + 1

/-- The address `[I]` as the unbounded integer from which offsets count up (R60, R156). -/
def State.indexAddress (s : State) : Nat := s.i.toNat

end Sys2Proof.Machine
end

