-- ==== Sys2Proof/Machine/Flags.lean ====
section
/-! DEFINITION. Every value the flags register VF can receive as a flag (spec/10_state.md R22): 0 or 1. -/

namespace Sys2Proof.Machine

/-- A flag as the byte VF receives (R22). -/
def flagByte (b : Bool) : Byte := if b then 0x01#8 else 0x00#8

/-- `8xy4`: the exact sum passes 255 (R136). -/
def carryFlag (a b : Byte) : Byte := flagByte (decide (255 < a.toNat + b.toNat))

/-- `8xy5` with `Vx`, `Vy`; `8xy7` with `Vy`, `Vx`: not-borrow, STRICTLY greater (R137, R139). -/
def notBorrowFlag (a b : Byte) : Byte := flagByte (decide (b.toNat < a.toNat))

/-- `8xy6`: the bit shifted out at the low end (R138). -/
def lowBitFlag (a : Byte) : Byte := flagByte (a.getLsbD 0)

/-- `8xyE`: the bit shifted out at the high end (R140). -/
def highBitFlag (a : Byte) : Byte := flagByte (a.getLsbD 7)

/-- `Dxyn`: a set cell was cleared (R161). -/
def collisionFlag (hit : Bool) : Byte := flagByte hit

/-- `VF <- f`. -/
def State.setFlag (s : State) (f : Byte) : State := s.setV vf f

end Sys2Proof.Machine
end

