-- ==== Sys2Proof/Machine/Alu.lean ====
section
/-! DEFINITION. Register load, arithmetic, logic, shift and random (spec/42_alu.md). All arithmetic wraps (R141). The
flag-writing instructions write VF first and the result second, each write on the state the one before left (R142, D5; log
entry 8). -/

namespace Sys2Proof.Machine

/-- `6xkk` (R130). -/
def execLdImm (x : RegIx) (kk : Byte) (s : State) : Outcome := finish (s.setV x kk)

/-- `7xkk` (R131): no flag. -/
def execAddImm (x : RegIx) (kk : Byte) (s : State) : Outcome := finish (s.setV x (s.getV x + kk))

/-- `8xy0` (R132). -/
def execLdReg (x y : RegIx) (s : State) : Outcome := finish (s.setV x (s.getV y))

/-- `8xy1` (R133): VF is not touched. -/
def execOr (x y : RegIx) (s : State) : Outcome := finish (s.setV x (s.getV x ||| s.getV y))

/-- `8xy2` (R134). -/
def execAnd (x y : RegIx) (s : State) : Outcome := finish (s.setV x (s.getV x &&& s.getV y))

/-- `8xy3` (R135). -/
def execXor (x y : RegIx) (s : State) : Outcome := finish (s.setV x (s.getV x ^^^ s.getV y))

/-- `8xy4` (R136): both operands are read into the sum before VF is written. -/
def execAddReg (x y : RegIx) (s : State) : Outcome :=
  let sum := s.getV x + s.getV y
  finish ((s.setFlag (carryFlag (s.getV x) (s.getV y))).setV x sum)

/-- `8xy5` (R137): the operands of the difference are read after VF was written. -/
def execSub (x y : RegIx) (s : State) : Outcome :=
  let s₁ := s.setFlag (notBorrowFlag (s.getV x) (s.getV y))
  finish (s₁.setV x (s₁.getV x - s₁.getV y))

/-- `8xy6` (R138): `Vx` is shifted, `y` is ignored (R98); read after VF was written. -/
def execShr (x _y : RegIx) (s : State) : Outcome :=
  let s₁ := s.setFlag (lowBitFlag (s.getV x))
  finish (s₁.setV x (s₁.getV x >>> 1))

/-- `8xy7` (R139): the operands of the difference are read after VF was written. -/
def execSubn (x y : RegIx) (s : State) : Outcome :=
  let s₁ := s.setFlag (notBorrowFlag (s.getV y) (s.getV x))
  finish (s₁.setV x (s₁.getV y - s₁.getV x))

/-- `8xyE` (R140): `Vx` is shifted, `y` is ignored (R98); read after VF was written. -/
def execShl (x _y : RegIx) (s : State) : Outcome :=
  let s₁ := s.setFlag (highBitFlag (s.getV x))
  finish (s₁.setV x (s₁.getV x <<< 1))

/-- `Cxkk` (R143): one byte of the stream is consumed whatever `kk` is. -/
def execRnd (x : RegIx) (kk : Byte) (s : State) : Outcome :=
  finish ({ s with rngPos := s.rngPos + 1 }.setV x (s.randomByte &&& kk))

end Sys2Proof.Machine
end

