-- ==== Sys2Proof/Machine/Control.lean ====
section
/-! DEFINITION. Control flow (spec/41_control_flow.md). PC already holds the address of the next instruction (R24, R117). -/

namespace Sys2Proof.Machine

/-- `00EE` (R120). -/
def execRet (s : State) : Outcome :=
  match pop s with
  | .ok (s', target) => finish { s' with pc := target }
  | .error e => stackStop s e

/-- `1nnn` (R121). -/
def execJp (nnn : Imm12) (s : State) : Outcome := finish { s with pc := immWord nnn }

/-- `2nnn` (R122): what is pushed is PC, the address of the next instruction. -/
def execCall (nnn : Imm12) (s : State) : Outcome :=
  match push s.pc s with
  | .ok s' => finish { s' with pc := immWord nnn }
  | .error e => stackStop s e

/-- `3xkk` (R123). -/
def execSeImm (x : RegIx) (kk : Byte) (s : State) : Outcome := finish (s.skipIf (decide (s.getV x = kk)))

/-- `4xkk` (R124). -/
def execSneImm (x : RegIx) (kk : Byte) (s : State) : Outcome := finish (s.skipIf (decide (s.getV x ≠ kk)))

/-- `5xy0` (R125). -/
def execSeReg (x y : RegIx) (s : State) : Outcome := finish (s.skipIf (decide (s.getV x = s.getV y)))

/-- `9xy0` (R126). -/
def execSneReg (x y : RegIx) (s : State) : Outcome := finish (s.skipIf (decide (s.getV x ≠ s.getV y)))

/-- `Bnnn` (R127). -/
def execJpV0 (nnn : Imm12) (s : State) : Outcome := finish { s with pc := s.offsetTarget nnn }

end Sys2Proof.Machine
end

