-- ==== Sys2Proof/Machine/Display.lean ====
section
/-! DEFINITION. Display (spec/44_display.md). -/

namespace Sys2Proof.Machine

/-- `00E0` (R160). -/
def execCls (s : State) : Outcome := finish { s with fb := Framebuffer.blank }

/-- `Dxyn` (R161): both coordinates are read before VF is written; VF is the collision flag. -/
def execDrw (x y : RegIx) (n : Nat) (s : State) : Outcome :=
  let drawn := drawSprite s.fb (s.getV x).toNat (s.getV y).toNat (s.mem.readBytes s.indexAddress n)
  finish ({ s with fb := drawn.1 }.setFlag (collisionFlag drawn.2))

end Sys2Proof.Machine
end

