-- ==== Sys2Proof/Machine/Index.lean ====
section
/-! DEFINITION. Index register and memory (spec/43_index_memory.md). `I` is never moved by a load or store (R156, D6); no
address is refused (R60, R68). -/

namespace Sys2Proof.Machine

/-- `Annn` (R150). -/
def execLdI (nnn : Imm12) (s : State) : Outcome := finish { s with i := immWord nnn }

/-- `Fx1E` (R151): wraps at 16 bits, no flag. -/
def execAddIVx (x : RegIx) (s : State) : Outcome := finish { s with i := s.i + byteWord (s.getV x) }

/-- `Fx29` (R152). -/
def execLdFVx (x : RegIx) (s : State) : Outcome := finish { s with i := glyphAddress (s.getV x) }

/-- `Fx33` (R153). -/
def execLdBVx (x : RegIx) (s : State) : Outcome :=
  finish { s with mem := s.mem.writeBytes s.indexAddress (bcdDigits (s.getV x)) }

/-- `Fx55` (R154). -/
def execStRegs (x : RegIx) (s : State) : Outcome :=
  finish { s with mem := s.mem.writeBytes s.indexAddress (s.firstRegs (regCount x)) }

/-- `Fx65` (R155). -/
def execLdRegs (x : RegIx) (s : State) : Outcome :=
  finish (s.setRegsFrom 0 (s.mem.readBytes s.indexAddress (regCount x)))

end Sys2Proof.Machine
end

