-- ==== Sys2Proof/Machine/Keyboard.lean ====
section
/-! DEFINITION. Keyboard (spec/45_keyboard.md). The completion of `Fx0A` is part of KEY_DOWN (Transactions). -/

namespace Sys2Proof.Machine

/-- `Ex9E` (R170). -/
def execSkp (x : RegIx) (s : State) : Outcome := finish (s.skipIf (s.keyHeld (s.getV x)))

/-- `ExA1` (R171). -/
def execSknp (x : RegIx) (s : State) : Outcome := finish (s.skipIf (!s.keyHeld (s.getV x)))

/-- `Fx0A` (R172): suspend; the TICK returns `Waiting` (R112). -/
def execLdVxK (x : RegIx) (s : State) : Outcome := .next ({ s with mode := .waitKey x }.returns .waiting)

end Sys2Proof.Machine
end

