-- ==== Sys2Proof/Machine/Timer.lean ====
section
/-! DEFINITION. Timers (spec/46_timers.md). Decrementing is the host's TIMER_DEC (Transactions). -/

namespace Sys2Proof.Machine

/-- `Fx07` (R180). -/
def execLdVxDt (x : RegIx) (s : State) : Outcome := finish (s.setV x s.dt)

/-- `Fx15` (R181). -/
def execLdDtVx (x : RegIx) (s : State) : Outcome := finish { s with dt := s.getV x }

/-- `Fx18` (R182). -/
def execLdStVx (x : RegIx) (s : State) : Outcome := finish { s with st := s.getV x }

end Sys2Proof.Machine
end

