-- ==== Sys2Proof/Machine/Transactions.lean ====
section
/-! DEFINITION. The host's transactions: TICK (spec/40_fetch_execute_cycle.md), RESET (spec/70_reset_and_hazards.md R250) and
the others (spec/47_host_transactions.md). Each is one indivisible step (R65, R190; log entry 1). -/

namespace Sys2Proof.Machine

/-! ## TICK -/

/-- An unassigned opcode `op`: a logged no-op (R113). The record holds the opcode and the address it was fetched from (R232). -/
def nopUnassigned (op : Word) (s : State) : Outcome :=
  .next ({ s.advance with log := s.log ++ [LogRecord.unassignedOpcode op s.pc] }.returns (.nop op))

/-- TICK in RUN: fetch, advance PC, decode, execute, in this order (R111). -/
def tickRun (s : State) : Outcome :=
  match decode s.fetch with
  | .ok i => exec i s.advance
  | .error _ => nopUnassigned s.fetch s

/-- TICK (R110 to R115): while suspended or cancelled it changes nothing of the core. -/
def tick (s : State) : Outcome :=
  match s.mode with
  | .run => tickRun s
  | .waitKey _ => .next (s.returns .waiting)
  | .cancelled => .next (s.returns .cancelled)

/-! ## The other transactions -/

/-- RESET (R250): all of R38 at once; the parameters stay, and what was already returned, logged or queued stays with the
host (log entry 19). -/
def doReset (s : State) : Outcome :=
  .next { State.resetWith s.mem.glyphs with faults := s.faults, log := s.log, inbox := s.inbox, result := .nothing }

/-- LOAD (R191): the length is tested before anything is written. -/
def doLoad (bytes : List Byte) (s : State) : Outcome :=
  if Config.memSize < Config.progBase + bytes.length then raise .capacityExceeded s
  else finish { s with mem := s.mem.writeBytes Config.progBase bytes }

/-- The completion of a key wait (R172, R192): only a mapped key-down while `WAIT_KEY(x)`. -/
def completeWait (k : Key) (s : State) : State :=
  match s.mode with
  | .waitKey x => { s with mode := .run }.setV x (keyByte k)
  | .run | .cancelled => s

/-- KEY_DOWN (R192): NONE is ignored. -/
def doKeyDown : Option Key → State → Outcome
  | none, s => .next (s.returns .nothing)
  | some k, s => .next ((completeWait k { s with keys := pressKey s.keys k }).returns .nothing)

/-- KEY_UP (R193): NONE is ignored. -/
def doKeyUp : Option Key → State → Outcome
  | none, s => .next (s.returns .nothing)
  | some k, s => .next ({ s with keys := releaseKey s.keys k }.returns .nothing)

/-- One timer, one decrement: a timer at 0 stays at 0 (R194, D11). -/
def countDown (t : Byte) : Byte := if t = 0#8 then 0#8 else t - 1#8

/-- TIMER_DEC (R194): both timers step. -/
def doTimerDec (s : State) : Outcome :=
  .next ({ s with dt := countDown s.dt, st := countDown s.st }.returns .nothing)

/-- CANCEL (R195): ends a pending key wait for good and returns `WaitCancelled` (R218); otherwise ignored, `Ok`. -/
def doCancel (s : State) : Outcome :=
  match s.mode with
  | .waitKey _ => raise .waitCancelled { s with mode := .cancelled }
  | .run | .cancelled => finish s

/-- FB_QUERY (R196). -/
def doFbQuery (x y : Nat) (s : State) : Outcome := .next (s.returns (.pixel (s.fb.get x y)))

/-- TIMER_POLL (R197). -/
def doTimerPoll (s : State) : Outcome := .next (s.returns (.timers s.dt s.st))

/-- One transaction (R11, R190). -/
def transact (t : Transaction) (s : State) : Outcome :=
  match t with
  | .reset => doReset s
  | .load bytes => doLoad bytes s
  | .tick => tick s
  | .keyDown k => doKeyDown k s
  | .keyUp k => doKeyUp k s
  | .timerDec => doTimerDec s
  | .cancel => doCancel s
  | .fbQuery x y => doFbQuery x y s
  | .timerPoll => doTimerPoll s

/-- The next transaction in the host's order: the first one queued, a TICK when none is (R72; log entry 1). -/
def nextTransaction (s : State) : Outcome :=
  match s.inbox with
  | [] => tick s
  | t :: rest => transact t { s with inbox := rest }

/-! ## The raw-code front end (R198) -/

/-- The least index from `k` up whose entry is `raw`. -/
def findKey {Raw : Type} [DecidableEq Raw] (raw : Raw) : Nat → List Raw → Option Key
  | _, [] => none
  | k, r :: rest => if r = raw then some (BitVec.ofNat 4 k) else findKey raw (k + 1) rest

/-- `map(raw)`: the least `i` with `KEYMAP[i] = raw`, or NONE (R198, D18; log entry 17). A host with raw events sends
`keyDown (mapRawKey keymap raw)`. -/
def mapRawKey {Raw : Type} [DecidableEq Raw] (keymap : Vector Raw 16) (raw : Raw) : Option Key :=
  findKey raw 0 keymap.toList

/-! ## Placing an instruction where the next TICK fetches it -/

/-- Store an opcode at PC, big-endian (R61), in a core that is running and whose host has nothing queued. -/
def placeOpcode (op : Word) (s : State) : State :=
  { s with
    mem := s.mem.writeBytes s.pc.toNat [op.extractLsb' 8 8, op.extractLsb' 0 8]
    mode := .run
    inbox := [] }

end Sys2Proof.Machine
end

