-- ==== Sys2Proof/Machine/Step.lean ====
section
/-! DEFINITION. One step of the machine: the next transaction of the host's order (spec/20_memory.md R72). -/

namespace Sys2Proof.Machine

/-- One step. -/
def step (s : State) : Host.Outcome State Fault Refusal := nextTransaction s

/-- `s` with the opcode `w` (numbered as spec/opcode_table.json numbers it, bits from `nbits` up zero) placed where the next
step fetches: at PC, in RUN mode, with no host transaction queued before it (log entry 21). -/
def State.withFetchWord (s : State) (nbits w : Nat) : State := placeOpcode (BitVec.ofNat 16 (w % 2 ^ nbits)) s

end Sys2Proof.Machine
end

