-- ==== Sys2Proof/Safety.lean ====
section
/-! DEFINITION. The terms in which claims are made: the invariant, what a safe run is, what a step may change, and the
cells a sprite covers. -/

namespace Sys2Proof.Machine

/-! ## The invariant and safe runs -/

/-- What every run keeps: SP is 0 to 16 (spec/10_state.md R26) and the memory is in canonical form. -/
def State.Inv (s : State) : Prop := s.sp.toNat ≤ Config.stackDepth ∧ s.mem.wf

/-- No fault was returned so far: the premise R216 asks a claim about a program to take. -/
def State.noFault (s : State) : Prop := s.faults = []

/-- No unassigned opcode was executed so far (R113). -/
def State.allAssigned (s : State) : Prop := s.log = []

/-- A run that has gone well so far, in a core that was not cancelled (R115, R216). -/
def State.safe (s : State) : Prop := s.Inv ∧ s.noFault ∧ s.mode ≠ .cancelled

/-- The model's own end of a run, as R116 suggests (D22, log entry 20): a running core whose next opcode is a jump to itself. -/
def State.spinning (s : State) : Prop :=
  s.mode = .run ∧ ∃ nnn : Imm12, decode s.fetch = .ok (.jp nnn) ∧ s.pc = immWord nnn

/-! ## What a step changes -/

/-- The pieces of state of R20, as finely as a frame needs them, then the model's own record. -/
inductive Part where
  | v (k : RegIx)
  | i
  | pc
  | sp
  | stack (slot : BitVec 4)
  | dt
  | st
  | mem (a : BitVec 12)
  | fb (x : BitVec 6) (y : BitVec 5)
  | keys
  | mode
  | rngPos
  | glyphs
  | faults
  | log
  | inbox
  deriving DecidableEq, Repr

/-- The piece `p` is the same in both states. -/
def Part.same (s t : State) : Part → Prop
  | .v k => t.getV k = s.getV k
  | .i => t.i = s.i
  | .pc => t.pc = s.pc
  | .sp => t.sp = s.sp
  | .stack k => t.stack[k.toNat] = s.stack[k.toNat]
  | .dt => t.dt = s.dt
  | .st => t.st = s.st
  | .mem a => t.mem.read a.toNat = s.mem.read a.toNat
  | .fb x y => t.fb.get x.toNat y.toNat = s.fb.get x.toNat y.toNat
  | .keys => t.keys = s.keys
  | .mode => t.mode = s.mode
  | .rngPos => t.rngPos = s.rngPos
  | .glyphs => t.mem.glyphs = s.mem.glyphs
  | .faults => t.faults = s.faults
  | .log => t.log = s.log
  | .inbox => t.inbox = s.inbox

/-- Every piece of state but the listed ones is the same in both states (`result`, which every transaction writes, aside). -/
def UnchangedBut (touched : List Part) (s t : State) : Prop := ∀ p : Part, p ∉ touched → p.same s t

/-- The memory bytes at `a`, `a + 1`, ..., `n` of them, as pieces of state. -/
def memParts (a n : Nat) : List Part := (List.range n).map (fun k => .mem (BitVec.ofNat 12 (a + k)))

/-- The registers `V[0]` to `V[n - 1]` as pieces of state. -/
def regParts (n : Nat) : List Part := (List.range n).map (fun k => .v (BitVec.ofNat 4 k))

/-- Every cell of the framebuffer, as pieces of state. -/
def fbParts : List Part :=
  (List.range 64).flatMap (fun x => (List.range 32).map (fun y => .fb (BitVec.ofNat 6 x) (BitVec.ofNat 5 y)))

/-- The table of R39, for instructions: may `i` write the piece (beyond PC's advance)? Not listed is never written. -/
def instrWrites (i : Instr) : Part → Bool
  | .v k =>
    match i with
    | .ldImm x _ | .addImm x _ | .ldReg x _ | .orReg x _ | .andReg x _ | .xorReg x _ | .rnd x _ | .ldVxDt x => k == x
    | .addReg x _ | .sub x _ | .shr x _ | .subn x _ | .shl x _ => k == x || k == vf
    | .drw _ _ _ => k == vf
    | .ldRegs x => decide (k.toNat ≤ x.toNat)
    | _ => false
  | .i => match i with | .ldI _ | .addIVx _ | .ldFVx _ => true | _ => false
  | .pc =>
    match i with
    | .ret | .jp _ | .call _ | .jpV0 _ | .seImm _ _ | .sneImm _ _ | .seReg _ _ | .sneReg _ _ | .skp _ | .sknp _ => true
    | _ => false
  | .sp => match i with | .call _ | .ret => true | _ => false
  | .stack _ => match i with | .call _ => true | _ => false
  | .dt => match i with | .ldDtVx _ => true | _ => false
  | .st => match i with | .ldStVx _ => true | _ => false
  | .mem _ => match i with | .ldBVx _ | .stRegs _ => true | _ => false
  | .fb _ _ => match i with | .cls | .drw _ _ _ => true | _ => false
  | .mode => match i with | .ldVxK _ => true | _ => false
  | .rngPos => match i with | .rnd _ _ => true | _ => false
  | .faults => match i with | .call _ | .ret => true | _ => false
  | .keys | .glyphs | .log | .inbox => false

/-- The table of R39, for the host's transactions other than RESET and TICK: may `tr`, issued in `s`, write the piece? -/
def hostWrites (tr : Transaction) (s : State) : Part → Bool
  | .v k => match tr, s.mode with | .keyDown (some _), .waitKey x => k == x | _, _ => false
  | .dt | .st => match tr with | .timerDec => true | _ => false
  | .mem a => match tr with | .load _ => decide (Config.progBase ≤ a.toNat) | _ => false
  | .keys => match tr with | .keyDown _ | .keyUp _ => true | _ => false
  | .mode => match tr, s.mode with | .keyDown (some _), .waitKey _ | .cancel, .waitKey _ => true | _, _ => false
  | .faults => match tr with | .load _ | .cancel => true | _ => false
  | .i | .pc | .sp | .stack _ | .fb _ _ | .rngPos | .glyphs | .log | .inbox => false

/-- Some result tells the two instructions apart: there is a state from which both complete and leave a piece of state
different. -/
def toldApart (i j : Instr) : Prop :=
  ∃ s t u : State, exec i s = .next t ∧ exec j s = .next u ∧ ∃ p : Part, ¬ p.same t u

/-! ## What the next fetch takes (R63) -/

/-- If the next fetch takes its high or its low byte from address `a`, that byte of the opcode is `b`. -/
def State.fetchSees (s : State) (a b : Nat) : Prop :=
  (a % 4096 = s.pc.toNat % 4096 → s.fetch.toNat / 256 = b) ∧
  (a % 4096 = (s.pc.toNat + 1) % 4096 → s.fetch.toNat % 256 = b)

/-! ## The cells a sprite covers (R161) -/

/-- The `n`-row sprite at `I` drawn at `(x0, y0)` has a set bit over the cell in column `cx`, row `cy`: the cell lies in row
`r` and column `c` of the sprite, counted with wrap, and bit `7 - c` of the row's byte is 1. -/
def spriteCovers (m : Memory) (index x0 y0 n cx cy : Nat) : Bool :=
  let r := (cy + 32 - y0 % 32) % 32
  let c := (cx + 64 - x0 % 64) % 64
  decide (r < n) && decide (c < 8) && (m.read (index + r)).getLsbD (7 - c)

end Sys2Proof.Machine
end

