-- ==== Sys2Proof/Certificates/Slice0/Obligations.lean ====
section
/-! DEFINITION. The statements for the provers. Each docstring names the rule of spec/ it formalises; where a clause rests on
a point the spec decides for itself (a row D<n> of spec/92_eei_decisions.md) or on a choice of this model, the docstring says
so and names the row or the log entry. An instruction is run on the state whose PC already holds the next address (R24). Every
`UnchangedBut` clause is the frame rule of R8: a rule's pseudocode is the whole effect (the spec's choice D6). -/

open Sys2Proof Sys2Proof.Machine

/-! ## Encoding -/

/-- Words written out from R93: `00E0`, `00EE`, `1ABC`, `4A05`, `9120`, `8124`, `C30F`, `F21E`, `D125`, `E49E`, `F30A`,
`F515`, and the unassigned `5121`, `8128`, `01E0` (exact matching is the spec's choice D4). -/
def Obligations.WordsOfEachFamilyDecode : Prop :=
  decode 0x00E0#16 = .ok .cls ∧ decode 0x00EE#16 = .ok .ret ∧ decode 0x1ABC#16 = .ok (.jp 0xABC#12) ∧
  decode 0x4A05#16 = .ok (.sneImm 0xA#4 0x05#8) ∧ decode 0x9120#16 = .ok (.sneReg 1#4 2#4) ∧
  decode 0x8124#16 = .ok (.addReg 1#4 2#4) ∧ decode 0xC30F#16 = .ok (.rnd 3#4 0x0F#8) ∧
  decode 0xF21E#16 = .ok (.addIVx 2#4) ∧ decode 0xD125#16 = .ok (.drw 1#4 2#4 5) ∧
  decode 0xE49E#16 = .ok (.skp 4#4) ∧ decode 0xF30A#16 = .ok (.ldVxK 3#4) ∧ decode 0xF515#16 = .ok (.ldDtVx 5#4) ∧
  decode 0x5121#16 = .error (.unassigned 0x5121#16) ∧ decode 0x8128#16 = .error (.unassigned 0x8128#16) ∧
  decode 0x01E0#16 = .error (.unassigned 0x01E0#16)

/-- Decoding the encoding of a well-formed instruction gives it back, every operand at every value (R91 to R93). -/
def Obligations.DecodeOfEncodeIsIdentity : Prop :=
  ∀ i : Instr, i.wellFormed = true →
    decode (encode i) = .ok i ∧ ∀ rest, decodeBytes (encodeBytes i ++ rest) = .ok (i, rest)

/-- What an opcode decodes to is well formed and encodes to that opcode: no bit of any opcode is dropped, the ignored `y` of
`8xy6` and `8xyE` included (R91, R98). -/
def Obligations.EncodeOfDecodeIsIdentity : Prop :=
  ∀ (op : Word) (i : Instr), decode op = .ok i → i.wellFormed = true ∧ encode i = op

/-- The decoder and the mask table of R93 agree, and the 34 rows are disjoint (the exact comparison of every fixed digit is
the spec's choice D4). -/
def Obligations.DecodeAgreesWithDisjointMaskTable : Prop :=
  opcodeTable.length = 34 ∧
  (∀ op : Word, ∀ r ∈ opcodeTable, r.matches op = true → ∃ i, decode op = .ok i ∧ i.mnemonic = r.mnemonic) ∧
  (∀ (op : Word) (i : Instr), decode op = .ok i → ∃ r ∈ opcodeTable, r.mnemonic = i.mnemonic ∧ r.matches op = true) ∧
  (∀ op : Word, ∀ r ∈ opcodeTable, ∀ r' ∈ opcodeTable, r.matches op = true → r'.matches op = true → r = r')

/-- Which opcodes are unassigned, group by group (R96; the spec's choice D4). -/
def Obligations.UnassignedOpcodesAreThoseOfTheGroups : Prop :=
  ∀ op : Word, decode op = .error (.unassigned op) ↔
    (fieldTop op = 0x0#4 ∧ op ≠ 0x00E0#16 ∧ op ≠ 0x00EE#16) ∨
    (fieldTop op = 0x5#4 ∧ fieldN op ≠ 0#4) ∨
    (fieldTop op = 0x8#4 ∧ 8 ≤ (fieldN op).toNat ∧ fieldN op ≠ 0xE#4) ∨
    (fieldTop op = 0x9#4 ∧ fieldN op ≠ 0#4) ∨
    (fieldTop op = 0xE#4 ∧ fieldKK op ≠ 0x9E#8 ∧ fieldKK op ≠ 0xA1#8) ∨
    (fieldTop op = 0xF#4 ∧ fieldKK op ∉
      [0x07#8, 0x0A#8, 0x15#8, 0x18#8, 0x1E#8, 0x29#8, 0x33#8, 0x55#8, 0x65#8])

/-- R98, with R138, R140 and R143. Clause 1: `8xy6` and `8xyE` shift `V[x]` and give the same result for every `y` (what they leave
when `x` = 15 rests on D5 and is stated of each shift by itself). Clause 2: every bit of every pattern is fixed or belongs to an
operand: each opcode that has a row's fixed bits encodes an instruction of that row. The other clauses: no other field is unused. For
every two values of a field, by kind of field (`nnn`; `x`, then `y` as the second register, then the only register; `kk`; `n`), the
instruction has other operands and a state from which the two results differ. The last clause, the mask of `Cxkk`, goes beyond R98:
that the byte drawn is the next one of a stream is the spec's choice D12, an open parameter, here a free value (log entry 3); two
results differ exactly when the two masks leave different bytes of it. -/
def Obligations.OnlyTheShiftsIgnoreAField : Prop :=
  (∀ (s : State) (x y y' : RegIx),
    (∃ t, exec (.shr x y) s = .next t ∧ exec (.shr x y') s = .next t ∧
      (x ≠ vf → (t.getV x).toNat = (s.getV x).toNat / 2)) ∧
    (∃ t, exec (.shl x y) s = .next t ∧ exec (.shl x y') s = .next t ∧
      (x ≠ vf → (t.getV x).toNat = 2 * (s.getV x).toNat % 256))) ∧
  (∀ r ∈ opcodeTable, ∀ op : Word, r.matches op = true →
    ∃ i : Instr, i.wellFormed = true ∧ i.mnemonic = r.mnemonic ∧ encode i = op) ∧
  (∀ a a' : Imm12, a ≠ a' →
    toldApart (.jp a) (.jp a') ∧ toldApart (.call a) (.call a') ∧ toldApart (.ldI a) (.ldI a') ∧
    toldApart (.jpV0 a) (.jpV0 a')) ∧
  (∀ x x' : RegIx, x ≠ x' →
    (∃ kk, toldApart (.seImm x kk) (.seImm x' kk)) ∧ (∃ kk, toldApart (.sneImm x kk) (.sneImm x' kk)) ∧
    (∃ kk, toldApart (.ldImm x kk) (.ldImm x' kk)) ∧ (∃ kk, toldApart (.addImm x kk) (.addImm x' kk)) ∧
    (∃ kk, toldApart (.rnd x kk) (.rnd x' kk)) ∧ (∃ y, toldApart (.seReg x y) (.seReg x' y)) ∧
    (∃ y, toldApart (.sneReg x y) (.sneReg x' y)) ∧ (∃ y, toldApart (.ldReg x y) (.ldReg x' y)) ∧
    (∃ y, toldApart (.orReg x y) (.orReg x' y)) ∧ (∃ y, toldApart (.andReg x y) (.andReg x' y)) ∧
    (∃ y, toldApart (.xorReg x y) (.xorReg x' y)) ∧ (∃ y, toldApart (.addReg x y) (.addReg x' y)) ∧
    (∃ y, toldApart (.sub x y) (.sub x' y)) ∧ (∃ y, toldApart (.subn x y) (.subn x' y)) ∧
    (∃ y, toldApart (.shr x y) (.shr x' y)) ∧ (∃ y, toldApart (.shl x y) (.shl x' y)) ∧
    (∃ z, toldApart (.seReg z x) (.seReg z x')) ∧ (∃ z, toldApart (.sneReg z x) (.sneReg z x')) ∧
    (∃ z, toldApart (.ldReg z x) (.ldReg z x')) ∧ (∃ z, toldApart (.orReg z x) (.orReg z x')) ∧
    (∃ z, toldApart (.andReg z x) (.andReg z x')) ∧ (∃ z, toldApart (.xorReg z x) (.xorReg z x')) ∧
    (∃ z, toldApart (.addReg z x) (.addReg z x')) ∧ (∃ z, toldApart (.sub z x) (.sub z x')) ∧
    (∃ z, toldApart (.subn z x) (.subn z x')) ∧ (∃ y n, n < 16 ∧ toldApart (.drw x y n) (.drw x' y n)) ∧
    (∃ z n, n < 16 ∧ toldApart (.drw z x n) (.drw z x' n)) ∧ toldApart (.skp x) (.skp x') ∧ toldApart (.sknp x) (.sknp x') ∧
    toldApart (.ldVxDt x) (.ldVxDt x') ∧ toldApart (.ldVxK x) (.ldVxK x') ∧ toldApart (.ldDtVx x) (.ldDtVx x') ∧
    toldApart (.ldStVx x) (.ldStVx x') ∧ toldApart (.addIVx x) (.addIVx x') ∧ toldApart (.ldFVx x) (.ldFVx x') ∧
    toldApart (.ldBVx x) (.ldBVx x') ∧ toldApart (.stRegs x) (.stRegs x') ∧ toldApart (.ldRegs x) (.ldRegs x')) ∧
  (∀ kk kk' : Byte, kk ≠ kk' →
    (∃ x, toldApart (.seImm x kk) (.seImm x kk')) ∧ (∃ x, toldApart (.sneImm x kk) (.sneImm x kk')) ∧
    (∃ x, toldApart (.ldImm x kk) (.ldImm x kk')) ∧ (∃ x, toldApart (.addImm x kk) (.addImm x kk'))) ∧
  (∀ n n' : Nat, n < 16 → n' < 16 → n ≠ n' → ∃ x y, toldApart (.drw x y n) (.drw x y n')) ∧
  (∀ (s : State) (x : RegIx) (kk kk' : Byte), exec (.rnd x kk) s = exec (.rnd x kk') s ↔
    Config.rngStream s.rngPos &&& kk = Config.rngStream s.rngPos &&& kk')

/-! ## The fetch-execute cycle -/

/-- R63: the opcode is the byte at PC modulo 4096, then the byte at PC + 1 modulo 4096, the first one the more significant. -/
def Obligations.FetchIsBigEndianAndWraps : Prop :=
  ∀ s : State, s.fetch.toNat =
    256 * (s.mem.readAt (s.pc.toNat % 4096)).toNat + (s.mem.readAt ((s.pc.toNat + 1) % 4096)).toNat

/-- A step is one transaction: the first the host has queued, on the state without it, and a TICK when nothing is queued
(R72, R190, R11; the queue, and that an empty one stands for a TICK, is this model's choice, log entry 1; one total order is
the spec's choice D23). In RUN, when the opcode at PC decodes to `i`, a TICK is `exec i` on the state with PC advanced by 2
(R63, R111; that fetch and advance are the core's is the spec's choice D17). -/
def Obligations.StepRunsDecodedInstruction : Prop :=
  (∀ s : State, s.inbox = [] → step s = transact .tick s) ∧
  (∀ (s : State) (tr : Transaction) (rest : List Transaction), s.inbox = tr :: rest →
    step s = transact tr { s with inbox := rest }) ∧
  (∀ (s : State) (i : Instr), s.mode = .run → decode s.fetch = .ok i →
    transact .tick s = exec i { s with pc := s.pc + 2#16 } ∧
    (s.inbox = [] → step s = exec i { s with pc := s.pc + 2#16 }) ∧
    (∀ rest, s.inbox = .tick :: rest → step s = exec i { s with pc := s.pc + 2#16, inbox := rest }))

/-- A TICK in RUN that fetches an unassigned opcode is a logged no-op, whatever the host has queued (R113; the record's
content is the spec's choice D21, exact matching D4, that nothing else changes D6; that the log stands in the state is this
model's choice, log entry 15). -/
def Obligations.UnassignedOpcodeIsLoggedNop : Prop :=
  ∀ s : State, s.mode = .run → decode s.fetch = .error (.unassigned s.fetch) →
    ∃ t, transact .tick s = .next t ∧ t.result = .nop s.fetch ∧ t.pc = s.pc + 2#16 ∧
      t.log = s.log ++ [.unassignedOpcode s.fetch s.pc] ∧ UnchangedBut [.pc, .log] s t

/-- A TICK outside RUN changes nothing and says why (R114, R115; the spec's choices D9, D10). -/
def Obligations.TickOutsideRunChangesNothing : Prop :=
  ∀ s : State,
    (∀ x, s.mode = .waitKey x → ∃ t, transact .tick s = .next t ∧ t.result = .waiting ∧ UnchangedBut [] s t) ∧
    (s.mode = .cancelled → ∃ t, transact .tick s = .next t ∧ t.result = .cancelled ∧ UnchangedBut [] s t)

/-- The result of a TICK is the one R112 lists for the case; the two stack faults are the only faults (the spec's choice
D2). -/
def Obligations.TickReturnsTheListedResult : Prop :=
  ∀ s t : State, transact .tick s = .next t →
    (s.mode = .cancelled ∧ t.result = .cancelled) ∨
    (∃ x, s.mode = .waitKey x ∧ t.result = .waiting) ∨
    (s.mode = .run ∧ decode s.fetch = .error (.unassigned s.fetch) ∧ t.result = .nop s.fetch) ∨
    (s.mode = .run ∧ ∃ x, decode s.fetch = .ok (.ldVxK x) ∧ t.result = .waiting) ∨
    (s.mode = .run ∧ decode s.fetch = .ok .ret ∧ s.sp = 0#8 ∧ t.result = .fault .stackUnderflow) ∨
    (s.mode = .run ∧ (∃ nnn, decode s.fetch = .ok (.call nnn)) ∧ s.sp = 16#8 ∧ t.result = .fault .stackOverflow) ∨
    (s.mode = .run ∧ (∃ i, decode s.fetch = .ok i ∧ (∀ x, i ≠ .ldVxK x) ∧ (i = .ret → s.sp ≠ 0#8) ∧
      (∀ nnn, i = .call nnn → s.sp ≠ 16#8)) ∧ t.result = .ok)

/-- A faulting TICK has no effect but PC's advance and what is returned; MODE stays RUN and the core goes on (R216, the
spec's choice D2; the run record `faults` is log entry 5). -/
def Obligations.FaultingTickOnlyAdvancesPc : Prop :=
  ∀ (s t : State) (f : FaultCode), transact .tick s = .next t → t.result = .fault f →
    s.mode = .run ∧ (f = .stackOverflow ∨ f = .stackUnderflow) ∧
    t.pc = s.pc + 2#16 ∧ t.faults = s.faults ++ [f] ∧ UnchangedBut [.pc, .faults] s t

/-! ## Control flow -/

/-- RET with 1 to 16 return addresses stacked: the newest one, whole, becomes PC; its slot is not erased (R120). -/
def Obligations.ReturnPopsNewestAddress : Prop :=
  ∀ s : State, 0 < s.sp.toNat → s.sp.toNat ≤ 16 →
    ∃ t, exec .ret s = .next t ∧ t.result = .ok ∧ t.sp.toNat + 1 = s.sp.toNat ∧
      s.stack[t.sp.toNat]? = some t.pc ∧ UnchangedBut [.pc, .sp] s t

/-- R212, R213: a TICK that fetches RET with SP = 0 returns `StackUnderflow`, one that fetches CALL with SP = 16 returns
`StackOverflow` and does not jump, whatever the host has queued; SP and the slots are as before and PC is the instruction's
address plus 2 (the state after a fault is the spec's choice D2; the run record `faults` is this model's choice, log entry
5). -/
def Obligations.StackFaultsChangeNothingButPc : Prop :=
  ∀ s : State, s.mode = .run →
    (decode s.fetch = .ok .ret → s.sp = 0#8 →
      ∃ t, transact .tick s = .next t ∧ t.result = .fault .stackUnderflow ∧ t.sp = 0#8 ∧ t.pc = s.pc + 2#16 ∧
        t.faults = s.faults ++ [.stackUnderflow] ∧ UnchangedBut [.pc, .faults] s t) ∧
    (∀ nnn, decode s.fetch = .ok (.call nnn) → s.sp = 16#8 →
      ∃ t, transact .tick s = .next t ∧ t.result = .fault .stackOverflow ∧ t.sp = 16#8 ∧ t.pc = s.pc + 2#16 ∧
        t.faults = s.faults ++ [.stackOverflow] ∧ UnchangedBut [.pc, .faults] s t)

/-- CALL with room on the stack pushes the 16-bit PC and jumps (R122). -/
def Obligations.CallPushesNextAddressAndJumps : Prop :=
  ∀ (s : State) (nnn : Imm12), s.sp.toNat < 16 →
    ∃ t, exec (.call nnn) s = .next t ∧ t.result = .ok ∧ t.pc.toNat = nnn.toNat ∧ t.sp.toNat = s.sp.toNat + 1 ∧
      t.stack[s.sp.toNat]? = some s.pc ∧ UnchangedBut [.pc, .sp, .stack (BitVec.ofNat 4 s.sp.toNat)] s t

/-- CALL followed at once by RET restores PC and SP exactly and leaves only the stale slot (R122, the property of §8). -/
def Obligations.CallThenReturnRestoresPc : Prop :=
  ∀ (s : State) (nnn : Imm12), s.sp.toNat < 16 →
    ∃ t u, exec (.call nnn) s = .next t ∧ exec .ret t = .next u ∧ u.result = .ok ∧ u.pc = s.pc ∧ u.sp = s.sp ∧
      UnchangedBut [.stack (BitVec.ofNat 4 s.sp.toNat)] s u

/-- R121, R127: `1nnn` sets PC to the zero-extended `nnn`; `Bnnn` sets PC to `V[0] + nnn`, always `V[0]`, never reduced to 12 bits
(that nothing else changes is the frame rule R8, the spec's choice D6, log entry 23). -/
def Obligations.JumpsSetPc : Prop :=
  ∀ (s : State) (nnn : Imm12),
    decode (0x1#4 ++ nnn) = .ok (.jp nnn) ∧ decode (0xB#4 ++ nnn) = .ok (.jpV0 nnn) ∧
    (∃ t, exec (.jp nnn) s = .next t ∧ t.result = .ok ∧ t.pc.toNat = nnn.toNat ∧ UnchangedBut [.pc] s t) ∧
    (∃ t, exec (.jpV0 nnn) s = .next t ∧ t.result = .ok ∧ t.pc.toNat = (s.getV 0#4).toNat + nnn.toNat ∧
      UnchangedBut [.pc] s t)

/-- R123, R124: the skips on an immediate, complements of each other, PC wrapping at 16 bits (that nothing else changes is
the frame rule R8, the spec's choice D6, log entry 23). -/
def Obligations.ImmediateSkipsCompareRegister : Prop :=
  ∀ (s : State) (x : RegIx) (kk : Byte),
    decode (0x3#4 ++ x ++ kk) = .ok (.seImm x kk) ∧ decode (0x4#4 ++ x ++ kk) = .ok (.sneImm x kk) ∧
    (∃ t, exec (.seImm x kk) s = .next t ∧ t.result = .ok ∧
      t.pc.toNat = (s.pc.toNat + if s.getV x = kk then 2 else 0) % 65536 ∧ UnchangedBut [.pc] s t) ∧
    (∃ t, exec (.sneImm x kk) s = .next t ∧ t.result = .ok ∧
      t.pc.toNat = (s.pc.toNat + if s.getV x = kk then 0 else 2) % 65536 ∧ UnchangedBut [.pc] s t)

/-- R125, R126: the skips on two registers; the low digit of the encoding is 0. -/
def Obligations.RegisterSkipsCompareRegisters : Prop :=
  ∀ (s : State) (x y : RegIx),
    (∀ n : BitVec 4, decode (0x5#4 ++ x ++ y ++ n) =
      if n = 0#4 then .ok (.seReg x y) else .error (.unassigned (0x5#4 ++ x ++ y ++ n))) ∧
    (∀ n : BitVec 4, decode (0x9#4 ++ x ++ y ++ n) =
      if n = 0#4 then .ok (.sneReg x y) else .error (.unassigned (0x9#4 ++ x ++ y ++ n))) ∧
    (∃ t, exec (.seReg x y) s = .next t ∧ t.result = .ok ∧
      t.pc.toNat = (s.pc.toNat + if s.getV x = s.getV y then 2 else 0) % 65536 ∧ UnchangedBut [.pc] s t) ∧
    (∃ t, exec (.sneReg x y) s = .next t ∧ t.result = .ok ∧
      t.pc.toNat = (s.pc.toNat + if s.getV x = s.getV y then 0 else 2) % 65536 ∧ UnchangedBut [.pc] s t)

/-- A jump to itself spins: the step changes no state (R116, R121; the custom is the spec's D22, log entry 20; with nothing
queued a step is a TICK, log entry 1). -/
def Obligations.JumpToSelfChangesNothing : Prop :=
  ∀ s : State, s.inbox = [] → s.spinning → ∃ t, step s = .next t ∧ t.result = .ok ∧ UnchangedBut [] s t

/-! ## Load, arithmetic, logic, shift, random -/

/-- R130, R132: `6xkk` copies the immediate and `8xy0` a register; no flag (that nothing else changes is the frame rule R8,
the spec's choice D6, log entry 23). -/
def Obligations.LoadsCopyTheirOperandIntoRegister : Prop :=
  ∀ (s : State) (x y : RegIx) (kk : Byte),
    decode (0x6#4 ++ x ++ kk) = .ok (.ldImm x kk) ∧ decode (0x8#4 ++ x ++ y ++ 0x0#4) = .ok (.ldReg x y) ∧
    (∃ t, exec (.ldImm x kk) s = .next t ∧ t.result = .ok ∧ t.getV x = kk ∧ UnchangedBut [.v x] s t) ∧
    (∃ t, exec (.ldReg x y) s = .next t ∧ t.result = .ok ∧ t.getV x = s.getV y ∧ UnchangedBut [.v x] s t)

/-- R131: `7xkk` adds modulo 256 and writes no flag (that nothing else changes is the frame rule R8, the spec's choice D6,
log entry 23). -/
def Obligations.AddImmediateWrapsWithoutFlag : Prop :=
  ∀ (s : State) (x : RegIx) (kk : Byte), decode (0x7#4 ++ x ++ kk) = .ok (.addImm x kk) ∧
    ∃ t, exec (.addImm x kk) s = .next t ∧ t.result = .ok ∧
      (t.getV x).toNat = ((s.getV x).toNat + kk.toNat) % 256 ∧ UnchangedBut [.v x] s t

/-- R133, R134, R135: OR, AND and exclusive OR, bit by bit; VF is not written. -/
def Obligations.LogicWorksBitByBitWithoutFlag : Prop :=
  ∀ (s : State) (x y : RegIx),
    decode (0x8#4 ++ x ++ y ++ 0x1#4) = .ok (.orReg x y) ∧ decode (0x8#4 ++ x ++ y ++ 0x2#4) = .ok (.andReg x y) ∧
    decode (0x8#4 ++ x ++ y ++ 0x3#4) = .ok (.xorReg x y) ∧
    (∃ t, exec (.orReg x y) s = .next t ∧ t.result = .ok ∧ UnchangedBut [.v x] s t ∧
      ∀ b, (t.getV x).getLsbD b = ((s.getV x).getLsbD b || (s.getV y).getLsbD b)) ∧
    (∃ t, exec (.andReg x y) s = .next t ∧ t.result = .ok ∧ UnchangedBut [.v x] s t ∧
      ∀ b, (t.getV x).getLsbD b = ((s.getV x).getLsbD b && (s.getV y).getLsbD b)) ∧
    (∃ t, exec (.xorReg x y) s = .next t ∧ t.result = .ok ∧ UnchangedBut [.v x] s t ∧
      ∀ b, (t.getV x).getLsbD b = ((s.getV x).getLsbD b != (s.getV y).getLsbD b))

/-- R136, R142: `8xy4` adds with carry out, both operands read before VF is written; with `x = 15` the sum, written last,
stays in VF (the order of the writes is the spec's choice D5). -/
def Obligations.AddRegistersSetsCarry : Prop :=
  ∀ (s : State) (x y : RegIx), decode (0x8#4 ++ x ++ y ++ 0x4#4) = .ok (.addReg x y) ∧
    ∃ t, exec (.addReg x y) s = .next t ∧ t.result = .ok ∧
      (t.getV x).toNat = ((s.getV x).toNat + (s.getV y).toNat) % 256 ∧
      (x ≠ vf → (t.getV vf).toNat = if 255 < (s.getV x).toNat + (s.getV y).toNat then 1 else 0) ∧
      UnchangedBut [.v x, .v vf] s t

/-- R137, R142: `8xy5`; the flag `f` is 1 exactly when `Vx` is STRICTLY greater; the difference re-reads its operands after VF
became `f`, so an operand that is VF counts as `f` (the order of the writes is the spec's choice D5). -/
def Obligations.SubtractSetsStrictNotBorrow : Prop :=
  ∀ (s : State) (x y : RegIx), decode (0x8#4 ++ x ++ y ++ 0x5#4) = .ok (.sub x y) ∧
    ∀ a b f : Nat, a = (s.getV x).toNat → b = (s.getV y).toNat → f = (if b < a then 1 else 0) →
      ∃ t, exec (.sub x y) s = .next t ∧ t.result = .ok ∧
        (t.getV x).toNat = (256 + (if x = vf then f else a) - (if y = vf then f else b)) % 256 ∧
        (x ≠ vf → (t.getV vf).toNat = f) ∧ UnchangedBut [.v x, .v vf] s t

/-- R139, R142: `8xy7`, the operands exchanged (the order of the writes is the spec's choice D5). -/
def Obligations.ReverseSubtractSetsStrictNotBorrow : Prop :=
  ∀ (s : State) (x y : RegIx), decode (0x8#4 ++ x ++ y ++ 0x7#4) = .ok (.subn x y) ∧
    ∀ a b f : Nat, a = (s.getV x).toNat → b = (s.getV y).toNat → f = (if a < b then 1 else 0) →
      ∃ t, exec (.subn x y) s = .next t ∧ t.result = .ok ∧
        (t.getV x).toNat = (256 + (if y = vf then f else b) - (if x = vf then f else a)) % 256 ∧
        (x ≠ vf → (t.getV vf).toNat = f) ∧ UnchangedBut [.v x, .v vf] s t

/-- R138, R142, R98: `8xy6` halves `Vx`, whatever `y` is, and VF receives the bit shifted out; with `x = 15` VF ends 0 (the
order of the writes is the spec's choice D5). -/
def Obligations.ShiftRightMovesLowBitToFlag : Prop :=
  ∀ (s : State) (x y : RegIx), decode (0x8#4 ++ x ++ y ++ 0x6#4) = .ok (.shr x y) ∧
    ∃ t, exec (.shr x y) s = .next t ∧ t.result = .ok ∧
      (x ≠ vf → (t.getV x).toNat = (s.getV x).toNat / 2 ∧ (t.getV vf).toNat = (s.getV x).toNat % 2) ∧
      (x = vf → (t.getV vf).toNat = 0) ∧ UnchangedBut [.v x, .v vf] s t

/-- R140, R142, R98: `8xyE` doubles `Vx` modulo 256, whatever `y` is, and VF receives the bit shifted out; with `x = 15` VF
ends 2 or 0 (the order of the writes is the spec's choice D5). -/
def Obligations.ShiftLeftMovesHighBitToFlag : Prop :=
  ∀ (s : State) (x y : RegIx), decode (0x8#4 ++ x ++ y ++ 0xE#4) = .ok (.shl x y) ∧
    ∃ t, exec (.shl x y) s = .next t ∧ t.result = .ok ∧
      (x ≠ vf → (t.getV x).toNat = 2 * (s.getV x).toNat % 256 ∧ (t.getV vf).toNat = (s.getV x).toNat / 128) ∧
      (x = vf → (t.getV vf).toNat = 2 * ((s.getV x).toNat / 128)) ∧ UnchangedBut [.v x, .v vf] s t

/-- R143: `Cxkk` takes the stream's next byte, masks it and moves on by one, whatever `kk` is. The byte is a free value: the
statement holds for every stream (the spec's open parameter D12, log entry 3). -/
def Obligations.RandomConsumesOneStreamByte : Prop :=
  ∀ (s : State) (x : RegIx) (kk : Byte), decode (0xC#4 ++ x ++ kk) = .ok (.rnd x kk) ∧
    ∃ t, exec (.rnd x kk) s = .next t ∧ t.result = .ok ∧ t.rngPos = s.rngPos + 1 ∧ UnchangedBut [.v x, .rngPos] s t ∧
      ∀ b, (t.getV x).getLsbD b = ((Config.rngStream s.rngPos).getLsbD b && kk.getLsbD b)

/-! ## Index register and memory -/

/-- R150: `Annn` sets I to the zero-extended `nnn` (that nothing else changes is the frame rule R8, the spec's choice D6,
log entry 23). -/
def Obligations.LoadIndexSetsImmediate : Prop :=
  ∀ (s : State) (nnn : Imm12), decode (0xA#4 ++ nnn) = .ok (.ldI nnn) ∧
    ∃ t, exec (.ldI nnn) s = .next t ∧ t.result = .ok ∧ t.i.toNat = nnn.toNat ∧ UnchangedBut [.i] s t

/-- R151: `Fx1E` adds `Vx` to I modulo 65536 and writes no flag. -/
def Obligations.AddToIndexWrapsAtSixteenBits : Prop :=
  ∀ (s : State) (x : RegIx), decode (0xF#4 ++ x ++ 0x1E#8) = .ok (.addIVx x) ∧
    ∃ t, exec (.addIVx x) s = .next t ∧ t.result = .ok ∧ t.i.toNat = (s.i.toNat + (s.getV x).toNat) % 65536 ∧
      UnchangedBut [.i] s t

/-- R152: `Fx29` sets I to `Vx` times 5, the whole byte (not masking it is the spec's choice D25). -/
def Obligations.GlyphPointerIsFiveTimesRegister : Prop :=
  ∀ (s : State) (x : RegIx), decode (0xF#4 ++ x ++ 0x29#8) = .ok (.ldFVx x) ∧
    ∃ t, exec (.ldFVx x) s = .next t ∧ t.result = .ok ∧ t.i.toNat = (s.getV x).toNat * 5 ∧ UnchangedBut [.i] s t

/-- R153: `Fx33` stores hundreds, tens and ones at I, I + 1, I + 2 and changes no other byte (addresses modulo 4096 and no
write protection are the spec's choices D1, D20). -/
def Obligations.StoreDecimalWritesThreeDigits : Prop :=
  ∀ (s : State) (x : RegIx), decode (0xF#4 ++ x ++ 0x33#8) = .ok (.ldBVx x) ∧
    ∃ t, exec (.ldBVx x) s = .next t ∧ t.result = .ok ∧
      (t.mem.read s.indexAddress).toNat = (s.getV x).toNat / 100 ∧
      (t.mem.read (s.indexAddress + 1)).toNat = (s.getV x).toNat / 10 % 10 ∧
      (t.mem.read (s.indexAddress + 2)).toNat = (s.getV x).toNat % 10 ∧
      UnchangedBut (memParts s.indexAddress 3) s t

/-- R154: `Fx55` stores `V[0]` to `V[x]` at I, I + 1, ..., I + x and changes no other byte and not I (D1, D6 and D20 are the
spec's choices). -/
def Obligations.StoreRegistersWritesAscendingBytes : Prop :=
  ∀ (s : State) (x : RegIx), decode (0xF#4 ++ x ++ 0x55#8) = .ok (.stRegs x) ∧
    ∃ t, exec (.stRegs x) s = .next t ∧ t.result = .ok ∧
      (∀ k : RegIx, k.toNat ≤ x.toNat → t.mem.read (s.indexAddress + k.toNat) = s.getV k) ∧
      UnchangedBut (memParts s.indexAddress (x.toNat + 1)) s t

/-- R155: `Fx65` loads `V[0]` to `V[x]` from I, I + 1, ..., I + x; the registers above, I and memory are unchanged (D1 and D6
are the spec's choices). -/
def Obligations.LoadRegistersReadsAscendingBytes : Prop :=
  ∀ (s : State) (x : RegIx), decode (0xF#4 ++ x ++ 0x65#8) = .ok (.ldRegs x) ∧
    ∃ t, exec (.ldRegs x) s = .next t ∧ t.result = .ok ∧
      (∀ k : RegIx, k.toNat ≤ x.toNat → t.getV k = s.mem.read (s.indexAddress + k.toNat)) ∧
      UnchangedBut (regParts (x.toNat + 1)) s t

/-- R155: registers stored by `Fx55` come back by `Fx65` with the same `x` and I, whatever the registers held in between. -/
def Obligations.StoreThenLoadRestoresRegisters : Prop :=
  ∀ (s : State) (x : RegIx) (junk : Vector Byte 16), ∃ t u, exec (.stRegs x) s = .next t ∧
    exec (.ldRegs x) { t with regs := junk } = .next u ∧ u.result = .ok ∧
    ∀ k : RegIx, k.toNat ≤ x.toNat → u.getV k = s.getV k

/-- R75: a byte that `Fx55`, `Fx33` or a LOAD stores where the next fetch takes it is the byte fetched: the high byte at PC,
the low byte at PC + 1, whichever byte of the run falls there, one or both (the rule is the spec's own inference; addresses
modulo 4096 are its choice D1, LOAD's side conditions D15). -/
def Obligations.StoreOverNextInstructionIsFetched : Prop :=
  ∀ s : State,
    (∀ x : RegIx, ∃ t, exec (.stRegs x) s = .next t ∧ t.pc = s.pc ∧
      ∀ k : RegIx, k.toNat ≤ x.toNat → t.fetchSees (s.indexAddress + k.toNat) (s.getV k).toNat) ∧
    (∀ x : RegIx, ∃ t, exec (.ldBVx x) s = .next t ∧ t.pc = s.pc ∧
      t.fetchSees s.indexAddress ((s.getV x).toNat / 100) ∧
      t.fetchSees (s.indexAddress + 1) ((s.getV x).toNat / 10 % 10) ∧
      t.fetchSees (s.indexAddress + 2) ((s.getV x).toNat % 10)) ∧
    (∀ bytes : List Byte, bytes.length ≤ 3584 → ∃ t, transact (.load bytes) s = .next t ∧ t.pc = s.pc ∧
      ∀ k, (h : k < bytes.length) → t.fetchSees (0x200 + k) bytes[k].toNat)

/-! ## Display -/

/-- R160: `00E0` turns every cell off and leaves VF (that nothing else changes is the frame rule R8, the spec's choice D6,
log entry 23). -/
def Obligations.ClearTurnsEveryCellOff : Prop :=
  ∀ s : State, decode 0x00E0#16 = .ok .cls ∧
    ∃ t, exec .cls s = .next t ∧ t.result = .ok ∧ (∀ cx cy, t.fb.get cx cy = false) ∧ UnchangedBut fbParts s t

/-- R161: `Dxyn` toggles exactly the cells under a set sprite bit, wrapping per cell, and VF says whether a set cell was
cleared (bit order, addresses and `n = 0` are the spec's choices D7, D1, D26). -/
def Obligations.DrawTogglesCoveredCellsAndReportsCollision : Prop :=
  ∀ (s : State) (x y : RegIx) (n : Nat), n < 16 →
    decode (0xD#4 ++ x ++ y ++ BitVec.ofNat 4 n) = .ok (.drw x y n) ∧
    ∀ covers : Nat → Nat → Bool,
      covers = spriteCovers s.mem s.indexAddress (s.getV x).toNat (s.getV y).toNat n →
      ∃ t, exec (.drw x y n) s = .next t ∧ t.result = .ok ∧
        (∀ cx < 64, ∀ cy < 32, t.fb.get cx cy = (s.fb.get cx cy != covers cx cy)) ∧
        (t.getV vf = 1#8 ↔ ∃ cx < 64, ∃ cy < 32, s.fb.get cx cy = true ∧ covers cx cy = true) ∧
        (t.getV vf = 0#8 ∨ t.getV vf = 1#8) ∧ UnchangedBut (.v vf :: fbParts) s t

/-- R161, the property of §8: the same sprite drawn twice at the same place restores the framebuffer; on a blank one VF is 0
after the first draw, and 1 after the second exactly when the sprite has a set bit. With `x` or `y` = 15 the first draw moves
the place, so those forms are not "the same coordinates". -/
def Obligations.DrawTwiceRestoresFramebuffer : Prop :=
  ∀ (s : State) (x y : RegIx) (n : Nat), n < 16 → x ≠ vf → y ≠ vf →
    ∃ t u, exec (.drw x y n) s = .next t ∧ exec (.drw x y n) t = .next u ∧ u.result = .ok ∧
      (∀ cx < 64, ∀ cy < 32, u.fb.get cx cy = s.fb.get cx cy) ∧
      ((∀ cx < 64, ∀ cy < 32, s.fb.get cx cy = false) → t.getV vf = 0#8 ∧
        (u.getV vf = 1#8 ↔ ∃ r < n, s.mem.read (s.indexAddress + r) ≠ 0#8))

/-! ## Keyboard and timers -/

/-- R170, R171: the key skips, complements of each other; a value of 16 or more is no key (the spec's choice D8). -/
def Obligations.KeySkipsTestTheLatch : Prop :=
  ∀ (s : State) (x : RegIx),
    decode (0xE#4 ++ x ++ 0x9E#8) = .ok (.skp x) ∧ decode (0xE#4 ++ x ++ 0xA1#8) = .ok (.sknp x) ∧
    ∀ down : Prop, (down ↔ ∃ k : Key, s.keys.getLsbD k.toNat = true ∧ (s.getV x).toNat = k.toNat) →
      (∃ t, exec (.skp x) s = .next t ∧ t.result = .ok ∧ UnchangedBut [.pc] s t ∧
        (down → t.pc.toNat = (s.pc.toNat + 2) % 65536) ∧ (¬ down → t.pc = s.pc)) ∧
      (∃ t, exec (.sknp x) s = .next t ∧ t.result = .ok ∧ UnchangedBut [.pc] s t ∧
        (down → t.pc = s.pc) ∧ (¬ down → t.pc.toNat = (s.pc.toNat + 2) % 65536))

/-- R172, R112: `Fx0A` suspends the core, `Waiting`, and changes nothing else, `Vx`, KEYS and PC included (the form of the
wait is the spec's choice D9). -/
def Obligations.KeyWaitSuspendsTheCore : Prop :=
  ∀ (s : State) (x : RegIx), decode (0xF#4 ++ x ++ 0x0A#8) = .ok (.ldVxK x) ∧
    ∃ t, exec (.ldVxK x) s = .next t ∧ t.result = .waiting ∧ t.mode = .waitKey x ∧ UnchangedBut [.mode] s t

/-- R180, R181, R182: the timer instructions (that nothing else changes is the frame rule R8, the spec's choice D6, log
entry 23). -/
def Obligations.TimerInstructionsMoveOneByte : Prop :=
  ∀ (s : State) (x : RegIx),
    decode (0xF#4 ++ x ++ 0x07#8) = .ok (.ldVxDt x) ∧ decode (0xF#4 ++ x ++ 0x15#8) = .ok (.ldDtVx x) ∧
    decode (0xF#4 ++ x ++ 0x18#8) = .ok (.ldStVx x) ∧
    (∃ t, exec (.ldVxDt x) s = .next t ∧ t.result = .ok ∧ t.getV x = s.dt ∧ UnchangedBut [.v x] s t) ∧
    (∃ t, exec (.ldDtVx x) s = .next t ∧ t.result = .ok ∧ t.dt = s.getV x ∧ UnchangedBut [.dt] s t) ∧
    (∃ t, exec (.ldStVx x) s = .next t ∧ t.result = .ok ∧ t.st = s.getV x ∧ UnchangedBut [.st] s t)

/-! ## The host's transactions -/

/-- R192, R172, R217: KEY_DOWN latches the key, and ends a pending wait with the key in its register; NONE does nothing (what
the completing event does is the spec's choice D9). -/
def Obligations.KeyDownLatchesAndCompletesWait : Prop :=
  ∀ s : State,
    (∃ t, transact (.keyDown none) s = .next t ∧ t.result = .nothing ∧ UnchangedBut [] s t) ∧
    ∀ k : Key, ∃ t, transact (.keyDown (some k)) s = .next t ∧ t.result = .nothing ∧
      (∀ j, t.keys.getLsbD j = (s.keys.getLsbD j || decide (j = k.toNat))) ∧
      (∀ x, s.mode = .waitKey x →
        t.mode = .run ∧ (t.getV x).toNat = k.toNat ∧ UnchangedBut [.keys, .mode, .v x] s t) ∧
      ((∀ x, s.mode ≠ .waitKey x) → UnchangedBut [.keys] s t)

/-- R193: KEY_UP clears its own key's bit and nothing else: it never ends a wait and never writes a register; NONE does
nothing (that memory, framebuffer, stack and the rest are kept is the frame rule R8, the spec's choice D6, log entry 23). -/
def Obligations.KeyUpClearsItsKeyOnly : Prop :=
  ∀ s : State,
    (∃ t, transact (.keyUp none) s = .next t ∧ t.result = .nothing ∧ UnchangedBut [] s t) ∧
    ∀ k : Key, ∃ t, transact (.keyUp (some k)) s = .next t ∧ t.result = .nothing ∧
      (∀ j, t.keys.getLsbD j = (s.keys.getLsbD j && decide (j ≠ k.toNat))) ∧ UnchangedBut [.keys] s t

/-- R194: TIMER_DEC lowers each timer by one, 0 staying 0 (the floor and the pairing are the spec's choice D11). -/
def Obligations.TimerDecStopsAtZero : Prop :=
  ∀ s : State, ∃ t, transact .timerDec s = .next t ∧ t.result = .nothing ∧
    t.dt.toNat = s.dt.toNat - 1 ∧ t.st.toNat = s.st.toNat - 1 ∧ UnchangedBut [.dt, .st] s t

/-- R195, R218: CANCEL ends a pending wait for good, without a key and with `WaitCancelled`; in any other mode it does nothing
(the spec's choice D10). -/
def Obligations.CancelEndsOnlyAPendingWait : Prop :=
  ∀ s : State, ∃ t, transact .cancel s = .next t ∧
    (∀ x, s.mode = .waitKey x → t.result = .fault .waitCancelled ∧ t.mode = .cancelled ∧
      t.faults = s.faults ++ [.waitCancelled] ∧ UnchangedBut [.mode, .faults] s t) ∧
    ((∀ x, s.mode ≠ .waitKey x) → t.result = .ok ∧ UnchangedBut [] s t)

/-- R196: FB_QUERY answers the cell, its coordinates modulo 64 and 32, and changes nothing. -/
def Obligations.FramebufferQueryAnswersCell : Prop :=
  ∀ (s : State) (x y : Nat), ∃ t, transact (.fbQuery x y) s = .next t ∧ UnchangedBut [] s t ∧
    ∃ row, s.fb[y % 32]? = some row ∧ t.result = .pixel (row.getLsbD (x % 64))

/-- R197: TIMER_POLL answers the two timers and changes nothing. -/
def Obligations.TimerPollAnswersBothTimers : Prop :=
  ∀ s : State, ∃ t, transact .timerPoll s = .next t ∧ UnchangedBut [] s t ∧ t.result = .timers s.dt s.st

/-- R191, R214: LOAD copies an image of at most 3584 bytes to 0x200 and touches nothing else; a longer one is refused with
nothing written (the side conditions are the spec's choice D15). -/
def Obligations.LoadCopiesImageOrRefusesIt : Prop :=
  ∀ (s : State) (bytes : List Byte), ∃ t, transact (.load bytes) s = .next t ∧
    (bytes.length ≤ 3584 → t.result = .ok ∧ (∀ k, (h : k < bytes.length) → t.mem.read (0x200 + k) = bytes[k]) ∧
      UnchangedBut (memParts 0x200 bytes.length) s t) ∧
    (3584 < bytes.length → t.result = .fault .capacityExceeded ∧ t.faults = s.faults ++ [.capacityExceeded] ∧
      UnchangedBut [.faults] s t)

/-- R198: `map` answers the least index whose entry is the raw code, and NONE exactly when no entry is (least `i` is the
spec's choice D18). -/
def Obligations.RawKeyMapsToLeastIndex : Prop :=
  ∀ (Raw : Type) [DecidableEq Raw] (keymap : Vector Raw 16) (raw : Raw),
    (∀ k : Key, mapRawKey keymap raw = some k ↔
      keymap[k.toNat]? = some raw ∧ ∀ j < k.toNat, keymap[j]? ≠ some raw) ∧
    (mapRawKey keymap raw = none ↔ ∀ j : Nat, keymap[j]? ≠ some raw)

/-! ## Reset -/

/-- R250: RESET puts every piece of state at its reset value from any state, keeping the glyph table: MEM is the table and
then zeros (R36). The values of STACK, MEM from 0x050 up, FB, KEYS, MODE and RNGPOS are the spec's choice D13; that RESET
may come again is D28; that the log, the run record and the queue stay is this model's choice, log entry 19. -/
def Obligations.ResetRestoresEveryPiece : Prop :=
  ∀ s : State, ∃ t, transact .reset s = .next t ∧ t.result = .nothing ∧
    (∀ k, t.getV k = 0#8) ∧ t.i = 0#16 ∧ t.pc = 0x0200#16 ∧ t.sp = 0#8 ∧ t.dt = 0#8 ∧ t.st = 0#8 ∧
    (∀ k : Nat, k < 16 → t.stack[k]? = some 0#16) ∧
    (∀ d r : Nat, d < 16 → r < 5 → (s.mem.glyphs[d]?.bind (·[r]?)) = some (t.mem.read (d * 5 + r))) ∧
    (∀ a, 0x050 ≤ a → a < 4096 → t.mem.read a = 0#8) ∧
    (∀ cx cy, t.fb.get cx cy = false) ∧ t.keys = 0#16 ∧ t.mode = .run ∧ t.rngPos = 0 ∧
    t.mem.glyphs = s.mem.glyphs ∧ t.faults = s.faults ∧ t.log = s.log ∧ t.inbox = s.inbox

/-- R252, the property of §8: after RESET and LOAD the image stands at 0x200 byte for byte, PC is 0x200, and the first opcode
fetched is the image's first two bytes (D13, D15, D27 are the spec's choices). -/
def Obligations.ResetThenLoadBootsTheImage : Prop :=
  ∀ (s : State) (hi lo : Byte) (rest : List Byte), rest.length ≤ 3582 →
    ∃ t u, transact .reset s = .next t ∧ transact (.load (hi :: lo :: rest)) t = .next u ∧ u.result = .ok ∧
      u.pc = 0x0200#16 ∧ u.mode = .run ∧ u.fetch.toNat = 256 * hi.toNat + lo.toNat ∧
      ∀ k, (h : k < (hi :: lo :: rest).length) → u.mem.read (0x200 + k) = (hi :: lo :: rest)[k]

/-- The state after reset (R38): the values the document states, that is V, I, DT, ST and SP zero and PC 0x200, and those the
spec chooses (D13). -/
def Obligations.ResetStateHoldsTheStatedValues : Prop :=
  (∀ k, State.reset.getV k = 0#8) ∧ State.reset.i = 0#16 ∧ State.reset.pc = 0x0200#16 ∧ State.reset.sp = 0#8 ∧
  State.reset.dt = 0#8 ∧ State.reset.st = 0#8 ∧ (∀ cx cy, State.reset.fb.get cx cy = false) ∧
  State.reset.keys = 0#16 ∧ State.reset.mode = .run ∧ State.reset.rngPos = 0 ∧
  ∀ a, 0x050 ≤ a → a < 4096 → State.reset.mem.read a = 0#8

/-! ## The whole machine -/

/-- R39: the complete map from state to its writers, for every instruction run by itself, for a whole TICK (which also
advances PC and may log), and for every transaction but RESET: what the map does not list is never written. The map is the
spec's own inference from its instruction rules, and rests on its frame rule (D6). -/
def Obligations.OnlyListedWritersWrite : Prop :=
  (∀ (i : Instr) (s t : State), exec i s = .next t → ∀ p : Part, instrWrites i p = false → p.same s t) ∧
  (∀ s t : State, transact .tick s = .next t → ∀ p : Part, p ≠ .pc → p ≠ .log →
    (s.mode = .run → ∀ i, decode s.fetch = .ok i → instrWrites i p = false) → p.same s t) ∧
  (∀ (tr : Transaction) (s t : State), tr ≠ .tick → tr ≠ .reset → transact tr s = .next t →
    ∀ p : Part, hostWrites tr s p = false → p.same s t)

/-- R33: MODE changes by the listed transitions only: RUN to WAIT_KEY(x) by `Fx0A`, WAIT_KEY to RUN by a mapped KEY_DOWN,
WAIT_KEY to CANCELLED by CANCEL, anything to RUN by RESET (the state machine is the spec's choice D9, D10). -/
def Obligations.ModeChangesByListedTransitionsOnly : Prop :=
  ∀ s t : State, step s = .next t →
    t.mode = s.mode ∨
    (s.mode = .run ∧ (s.inbox = [] ∨ ∃ rest, s.inbox = .tick :: rest) ∧
      ∃ x, decode s.fetch = .ok (.ldVxK x) ∧ t.mode = .waitKey x) ∨
    ((∃ x, s.mode = .waitKey x) ∧ (∃ k rest, s.inbox = .keyDown (some k) :: rest) ∧ t.mode = .run) ∨
    ((∃ x, s.mode = .waitKey x) ∧ (∃ rest, s.inbox = .cancel :: rest) ∧ t.mode = .cancelled) ∨
    ((∃ rest, s.inbox = .reset :: rest) ∧ t.mode = .run)

/-- R210: no instruction and no transaction crashes the core: from any state whose SP is legal (R26), every transaction
answers a next state (that faults are next states rests on the spec's choice D2). With SP outside 0 to 16, which no run
reaches (R26, D29), there is no stack slot to use, and CALL and RET stop the model (this model's choice, log entry 6). -/
def Obligations.StopsOnlyWithStackPointerOutOfRange : Prop :=
  (∀ (tr : Transaction) (s : State), s.sp.toNat ≤ 16 → ∃ t, transact tr s = .next t) ∧
  (∀ (i : Instr) (s : State), s.sp.toNat ≤ 16 → ∃ t, exec i s = .next t) ∧
  (∀ (s : State) (nnn : Imm12), 16 < s.sp.toNat →
    exec .ret s = .fault .stackPointerRange ∧ exec (.call nnn) s = .fault .stackPointerRange)

/-- The invariant holds right after reset. -/
def Obligations.InvariantHoldsAtReset : Prop := State.reset.Inv

/-- Every step, whatever the host has queued, keeps SP within 0 to 16 (R26) and the memory in canonical form. -/
def Obligations.EveryStepKeepsTheInvariant : Prop :=
  ∀ s t : State, s.Inv → step s = .next t → t.Inv

/-- R210, R222: a machine that starts within the invariant runs for ever, whatever program and whatever transactions it is
given: no run stops in a fault or a refusal. -/
def Obligations.NoRunFromTheInvariantStops : Prop :=
  ∀ (k : Nat) (s : State), s.Inv → ∃ t : State, Sys2Proof.core.run k s = .next t ∧ t.Inv
end

