-- ==== Sys2Proof/Laws/Decode.lean ====
section
/-! SUPPORT. The fields of a pattern written digit by digit, and an opcode as the sequence of its fields (spec/30_encoding.md
R91, R92). -/

namespace Sys2Proof

/-! ## An opcode is the sequence of its fields -/

theorem top_append_nnn (op : Word) : fieldTop op ++ fieldNNN op = op := by
  apply BitVec.eq_of_getLsbD_eq
  intro j hj
  simp only [fieldTop, fieldNNN, BitVec.getLsbD_append, BitVec.getLsbD_extractLsb']
  interval_cases j <;> simp

theorem top_append_x_kk (op : Word) : fieldTop op ++ fieldX op ++ fieldKK op = op := by
  apply BitVec.eq_of_getLsbD_eq
  intro j hj
  simp only [fieldTop, fieldX, fieldKK, BitVec.getLsbD_append, BitVec.getLsbD_extractLsb']
  interval_cases j <;> simp

theorem top_append_x_y_n (op : Word) : fieldTop op ++ fieldX op ++ fieldY op ++ fieldN op = op := by
  apply BitVec.eq_of_getLsbD_eq
  intro j hj
  simp only [fieldTop, fieldX, fieldY, fieldN, BitVec.getLsbD_append, BitVec.getLsbD_extractLsb']
  interval_cases j <;> simp

/-! ## The fields of a pattern -/

theorem fields_of_nnn (t : BitVec 4) (nnn : Imm12) : fieldTop (t ++ nnn) = t ∧ fieldNNN (t ++ nnn) = nnn := by
  constructor <;> apply BitVec.eq_of_getLsbD_eq <;> intro i hi <;>
    simp only [fieldTop, fieldNNN, BitVec.getLsbD_extractLsb', BitVec.getLsbD_append] <;> interval_cases i <;> simp

theorem fields_of_x_kk (t : BitVec 4) (x : RegIx) (kk : Byte) :
    fieldTop (t ++ x ++ kk) = t ∧ fieldX (t ++ x ++ kk) = x ∧ fieldKK (t ++ x ++ kk) = kk := by
  refine ⟨?_, ?_, ?_⟩ <;> apply BitVec.eq_of_getLsbD_eq <;> intro i hi <;>
    simp only [fieldTop, fieldX, fieldKK, BitVec.getLsbD_extractLsb', BitVec.getLsbD_append] <;>
    interval_cases i <;> simp

theorem fields_of_x_y_n (t : BitVec 4) (x y : RegIx) (n : BitVec 4) :
    fieldTop (t ++ x ++ y ++ n) = t ∧ fieldX (t ++ x ++ y ++ n) = x ∧ fieldY (t ++ x ++ y ++ n) = y ∧
      fieldN (t ++ x ++ y ++ n) = n := by
  refine ⟨?_, ?_, ?_, ?_⟩ <;> apply BitVec.eq_of_getLsbD_eq <;> intro i hi <;>
    simp only [fieldTop, fieldX, fieldY, fieldN, BitVec.getLsbD_extractLsb', BitVec.getLsbD_append] <;>
    interval_cases i <;> simp

/-! ## Decoding, top digit by top digit (R95) -/

section topDigit

variable {op : Word}

theorem decode_top0 (h : fieldTop op = 0x0#4) : decode op = decode0 op := by simp [decode, h]
theorem decode_top1 (h : fieldTop op = 0x1#4) : decode op = .ok (.jp (fieldNNN op)) := by simp [decode, h]
theorem decode_top2 (h : fieldTop op = 0x2#4) : decode op = .ok (.call (fieldNNN op)) := by simp [decode, h]
theorem decode_top3 (h : fieldTop op = 0x3#4) :
    decode op = .ok (.seImm (fieldX op) (fieldKK op)) := by
  simp [decode, h]
theorem decode_top4 (h : fieldTop op = 0x4#4) :
    decode op = .ok (.sneImm (fieldX op) (fieldKK op)) := by
  simp [decode, h]
theorem decode_top5 (h : fieldTop op = 0x5#4) :
    decode op = if fieldN op = 0x0#4 then .ok (.seReg (fieldX op) (fieldY op)) else .error (.unassigned op) := by
  simp [decode, h]
theorem decode_top6 (h : fieldTop op = 0x6#4) :
    decode op = .ok (.ldImm (fieldX op) (fieldKK op)) := by
  simp [decode, h]
theorem decode_top7 (h : fieldTop op = 0x7#4) :
    decode op = .ok (.addImm (fieldX op) (fieldKK op)) := by
  simp [decode, h]
theorem decode_top8 (h : fieldTop op = 0x8#4) : decode op = decode8 op := by simp [decode, h]
theorem decode_top9 (h : fieldTop op = 0x9#4) :
    decode op = if fieldN op = 0x0#4 then .ok (.sneReg (fieldX op) (fieldY op)) else .error (.unassigned op) := by
  simp [decode, h]
theorem decode_topA (h : fieldTop op = 0xA#4) : decode op = .ok (.ldI (fieldNNN op)) := by simp [decode, h]
theorem decode_topB (h : fieldTop op = 0xB#4) : decode op = .ok (.jpV0 (fieldNNN op)) := by simp [decode, h]
theorem decode_topC (h : fieldTop op = 0xC#4) : decode op = .ok (.rnd (fieldX op) (fieldKK op)) := by simp [decode, h]
theorem decode_topD (h : fieldTop op = 0xD#4) :
    decode op = .ok (.drw (fieldX op) (fieldY op) (fieldN op).toNat) := by
  simp [decode, h]
theorem decode_topE (h : fieldTop op = 0xE#4) : decode op = decodeE op := by simp [decode, h]
theorem decode_topF (h : fieldTop op = 0xF#4) : decode op = decodeF op := by simp [decode, h]

end topDigit

/-- A hexadecimal digit is one of sixteen. -/
theorem digit_cases (d : BitVec 4) :
    d = 0x0#4 ∨ d = 0x1#4 ∨ d = 0x2#4 ∨ d = 0x3#4 ∨ d = 0x4#4 ∨ d = 0x5#4 ∨ d = 0x6#4 ∨ d = 0x7#4 ∨
    d = 0x8#4 ∨ d = 0x9#4 ∨ d = 0xA#4 ∨ d = 0xB#4 ∨ d = 0xC#4 ∨ d = 0xD#4 ∨ d = 0xE#4 ∨ d = 0xF#4 := by
  revert d; decide

/-! ## Bytes -/

/-- The two bytes of an opcode, high byte first, make the opcode (R61). -/
theorem opcodeOfBytes_split (op : Word) : opcodeOfBytes (op.extractLsb' 8 8) (op.extractLsb' 0 8) = op := by
  apply BitVec.eq_of_getLsbD_eq
  intro j hj
  simp only [opcodeOfBytes, BitVec.getLsbD_append, BitVec.getLsbD_extractLsb']
  interval_cases j <;> simp

end Sys2Proof
end

