-- ==== Sys2Proof/Laws/Framebuffer.lean ====
section
/-! SUPPORT. The laws of the framebuffer: what one cell reads after a toggle, a sprite bit and a sprite row. -/

namespace Sys2Proof.Machine

theorem Framebuffer.get_mod (fb : Framebuffer) (x y : Nat) : fb.get (x % 64) (y % 32) = fb.get x y := by
  simp [Framebuffer.get]

@[simp] theorem Framebuffer.get_blank (x y : Nat) : Framebuffer.blank.get x y = false := by
  simp [Framebuffer.get, Framebuffer.blank]

/-- A toggle flips its own cell and leaves every other. -/
theorem Framebuffer.get_toggle (fb : Framebuffer) (x y cx cy : Nat) :
    (fb.toggle x y).get cx cy = (fb.get cx cy ^^ (decide (cx % 64 = x % 64) && decide (cy % 32 = y % 32))) := by
  simp only [Framebuffer.get, Framebuffer.toggle, Vector.getElem_set]
  by_cases hy : cy % 32 = y % 32
  · have hx : x % 64 < 64 := Nat.mod_lt _ (by decide)
    simp only [hy, if_true, BitVec.getLsbD_xor, BitVec.getLsbD_twoPow, Bool.and_true, decide_true, Config.fbWidth, hx,
      Bool.true_and, eq_comm]
  · simp [hy, Ne.symm hy]

/-- A sprite bit flips its cell when it is 1, and reports the cell's old value. -/
theorem drawBit_spec (x y cx cy : Nat) (on : Bool) (d : Framebuffer × Bool) :
    (drawBit x y on d).1.get cx cy
        = (d.1.get cx cy ^^ (on && decide (cx % 64 = x % 64) && decide (cy % 32 = y % 32)))
      ∧ (drawBit x y on d).2 = (d.2 || (on && d.1.get x y)) := by
  cases on <;> simp [drawBit, Framebuffer.get_toggle]

end Sys2Proof.Machine
end

