-- ==== Sys2Proof/Laws/Memory.lean ====
section
/-! SUPPORT. The laws of memory: read after write, runs of bytes, and that every operation keeps the canonical form. -/

namespace Sys2Proof.Machine

/-! ## Cell lists -/

theorem cellsLookup_insert (cells : List Host.Cell) (a b : Nat) (v : Byte) :
    cellsLookup (cellsInsert cells a v) b = if b = a then some v else cellsLookup cells b := by
  induction cells with
  | nil => simp [cellsInsert, cellsLookup]
  | cons c rest ih =>
    obtain ⟨k, w⟩ := c
    simp only [cellsInsert]
    split
    · simp [cellsLookup]
    · split
      · next h => subst h; simp only [cellsLookup]; split <;> rfl
      · next _ h =>
        simp only [cellsLookup, ih]
        by_cases hb : b = k
        · subst hb; simp [Ne.symm h]
        · simp [hb]

theorem cellsLookup_erase (cells : List Host.Cell) (a b : Nat) :
    cellsLookup (cellsErase cells a) b = if b = a then none else cellsLookup cells b := by
  induction cells with
  | nil => simp [cellsErase, cellsLookup]
  | cons c rest ih =>
    obtain ⟨k, w⟩ := c
    simp only [cellsErase] at ih ⊢
    by_cases hk : k = a
    · subst hk
      simp only [ne_eq, not_true_eq_false, decide_false, List.filter_cons, Bool.false_eq_true, if_false, ih,
        cellsLookup]
      split <;> rfl
    · simp only [ne_eq, hk, not_false_eq_true, decide_true, List.filter_cons, if_true, cellsLookup, ih]
      by_cases hb : b = k
      · subst hb; simp [hk]
      · simp [hb]

theorem mem_cellsInsert (cells : List Host.Cell) (a : Nat) (v : Byte) (c : Host.Cell)
    (h : c ∈ cellsInsert cells a v) : c = (a, v) ∨ c ∈ cells := by
  induction cells with
  | nil => simpa [cellsInsert] using h
  | cons d rest ih =>
    obtain ⟨k, w⟩ := d
    simp only [cellsInsert] at h
    split at h
    · simpa using h
    · split at h
      · simp only [List.mem_cons] at h ⊢; tauto
      · simp only [List.mem_cons] at h ⊢
        rcases h with h | h
        · exact .inr (.inl h)
        · rcases ih h with h | h
          · exact .inl h
          · exact .inr (.inr h)

theorem cellsInsert_sorted (cells : List Host.Cell) (a : Nat) (v : Byte)
    (h : cells.Pairwise (fun c d => c.1 < d.1)) : (cellsInsert cells a v).Pairwise (fun c d => c.1 < d.1) := by
  induction cells with
  | nil => simp [cellsInsert]
  | cons d rest ih =>
    obtain ⟨k, w⟩ := d
    rw [List.pairwise_cons] at h
    obtain ⟨hk, hrest⟩ := h
    simp only [cellsInsert]
    split
    · next hlt =>
      refine List.pairwise_cons.2 ⟨?_, List.pairwise_cons.2 ⟨hk, hrest⟩⟩
      rintro c (_ | ⟨_, hc⟩)
      · exact hlt
      · exact Nat.lt_trans hlt (hk c hc)
    · split
      · next heq => subst heq; exact List.pairwise_cons.2 ⟨hk, hrest⟩
      · next hge hne =>
        refine List.pairwise_cons.2 ⟨fun c hc => ?_, ih hrest⟩
        rcases mem_cellsInsert rest a v c hc with rfl | hc
        · show k < a; omega
        · exact hk c hc

/-! ## One byte -/

@[simp] theorem Memory.write_glyphs (m : Memory) (a : Nat) (v : Byte) : (m.write a v).glyphs = m.glyphs := rfl

@[simp] theorem Memory.unlisted_write (m : Memory) (a b : Nat) (v : Byte) :
    (m.write a v).unlisted b = m.unlisted b := rfl

/-- Read after write (R60, R66): the byte written at that address modulo 4096, and every other byte as before. -/
theorem Memory.read_write (m : Memory) (a b : Nat) (v : Byte) :
    (m.write a v).read b = if b % 4096 = a % 4096 then v else m.read b := by
  simp only [Memory.read, Memory.write, Memory.readAt, Memory.writeAt]
  split
  · next hv =>
    rw [cellsLookup_erase]
    by_cases h : b % 4096 = a % 4096
    · simp only [h, if_true, Option.getD_none]; exact hv.symm
    · simp only [h, if_false]; rfl
  · rw [cellsLookup_insert]
    by_cases h : b % 4096 = a % 4096
    · simp [h]
    · simp only [h, if_false]; rfl

theorem Memory.read_mod (m : Memory) (a : Nat) : m.read (a % 4096) = m.read a := by
  simp [Memory.read]

/-- A memory that lists nothing reads as after reset (R36). -/
theorem Memory.read_reset (g : GlyphTable) (a : Nat) : (Memory.mk g []).read a = resetByte g (a % 4096) := rfl

theorem Memory.write_wf (m : Memory) (a : Nat) (v : Byte) (h : m.wf) : (m.write a v).wf := by
  obtain ⟨hs, hc⟩ := h
  have ha : a % 4096 < 4096 := Nat.mod_lt _ (by decide)
  simp only [Memory.wf, Memory.unlisted_write]
  simp only [Memory.write, Memory.writeAt]
  split
  · refine ⟨hs.filter _, fun c hm => hc c (List.mem_of_mem_filter hm)⟩
  · next hv =>
    refine ⟨cellsInsert_sorted _ _ _ hs, fun c hm => ?_⟩
    rcases mem_cellsInsert _ _ _ c hm with rfl | hm
    · exact ⟨ha, hv⟩
    · exact hc c hm

/-! ## Runs of bytes -/

@[simp] theorem Memory.writeBytes_glyphs (m : Memory) (a : Nat) (bs : List Byte) :
    (m.writeBytes a bs).glyphs = m.glyphs := by
  induction bs generalizing m a with
  | nil => rfl
  | cons b rest ih => simp [Memory.writeBytes, ih]

theorem Memory.writeBytes_wf (m : Memory) (a : Nat) (bs : List Byte) (h : m.wf) : (m.writeBytes a bs).wf := by
  induction bs generalizing m a with
  | nil => exact h
  | cons b rest ih => exact ih _ _ (m.write_wf a b h)

/-- A byte no address of the run falls on is as before. -/
theorem Memory.read_writeBytes_outside (m : Memory) (a b : Nat) (bs : List Byte)
    (h : ∀ k, k < bs.length → b % 4096 ≠ (a + k) % 4096) : (m.writeBytes a bs).read b = m.read b := by
  induction bs generalizing m a with
  | nil => rfl
  | cons v rest ih =>
    rw [Memory.writeBytes, ih, Memory.read_write, if_neg]
    · simpa using h 0 (by simp)
    · intro k hk
      have := h (k + 1) (by simpa using hk)
      rwa [show a + 1 + k = a + (k + 1) by omega]

/-- A run no longer than the memory reads back byte by byte. -/
theorem Memory.read_writeBytes_inside (m : Memory) (a k : Nat) (bs : List Byte) (hl : bs.length ≤ 4096)
    (hk : k < bs.length) : (m.writeBytes a bs).read (a + k) = bs[k] := by
  induction bs generalizing m a k with
  | nil => simp at hk
  | cons v rest ih =>
    simp only [List.length_cons] at hl hk
    rw [Memory.writeBytes]
    cases k with
    | zero =>
      rw [Memory.read_writeBytes_outside, Memory.read_write]
      · simp
      · intro j hj; omega
    | succ j =>
      rw [show a + (j + 1) = a + 1 + j by omega, ih _ _ _ (by omega) (by omega)]
      rfl

@[simp] theorem Memory.length_readBytes (m : Memory) (a n : Nat) : (m.readBytes a n).length = n := by
  induction n generalizing a with
  | zero => rfl
  | succ n ih => simp [Memory.readBytes, ih]

theorem Memory.getElem_readBytes (m : Memory) (a n k : Nat) (h : k < (m.readBytes a n).length) :
    (m.readBytes a n)[k] = m.read (a + k) := by
  induction n generalizing a k with
  | zero => simp [Memory.readBytes] at h
  | succ n ih =>
    cases k with
    | zero => rfl
    | succ j =>
      simp only [Memory.readBytes, List.getElem_cons_succ]
      rw [ih, show a + 1 + j = a + (j + 1) by omega]

end Sys2Proof.Machine
end

