-- ==== Sys2Proof/Laws/State.lean ====
section
/-! SUPPORT. One lemma per field per named update of State, and the laws of the registers: no later proof unfolds a record
update. -/

namespace Sys2Proof.Machine

section setV

variable (s : State) (x : RegIx) (b : Byte)

@[simp] theorem State.setV_i : (s.setV x b).i = s.i := rfl
@[simp] theorem State.setV_pc : (s.setV x b).pc = s.pc := rfl
@[simp] theorem State.setV_sp : (s.setV x b).sp = s.sp := rfl
@[simp] theorem State.setV_dt : (s.setV x b).dt = s.dt := rfl
@[simp] theorem State.setV_st : (s.setV x b).st = s.st := rfl
@[simp] theorem State.setV_stack : (s.setV x b).stack = s.stack := rfl
@[simp] theorem State.setV_mem : (s.setV x b).mem = s.mem := rfl
@[simp] theorem State.setV_fb : (s.setV x b).fb = s.fb := rfl
@[simp] theorem State.setV_keys : (s.setV x b).keys = s.keys := rfl
@[simp] theorem State.setV_mode : (s.setV x b).mode = s.mode := rfl
@[simp] theorem State.setV_rngPos : (s.setV x b).rngPos = s.rngPos := rfl
@[simp] theorem State.setV_result : (s.setV x b).result = s.result := rfl
@[simp] theorem State.setV_faults : (s.setV x b).faults = s.faults := rfl
@[simp] theorem State.setV_log : (s.setV x b).log = s.log := rfl
@[simp] theorem State.setV_inbox : (s.setV x b).inbox = s.inbox := rfl

end setV

section setFlag

variable (s : State) (f : Byte)

@[simp] theorem State.setFlag_i : (s.setFlag f).i = s.i := rfl
@[simp] theorem State.setFlag_pc : (s.setFlag f).pc = s.pc := rfl
@[simp] theorem State.setFlag_sp : (s.setFlag f).sp = s.sp := rfl
@[simp] theorem State.setFlag_dt : (s.setFlag f).dt = s.dt := rfl
@[simp] theorem State.setFlag_st : (s.setFlag f).st = s.st := rfl
@[simp] theorem State.setFlag_stack : (s.setFlag f).stack = s.stack := rfl
@[simp] theorem State.setFlag_mem : (s.setFlag f).mem = s.mem := rfl
@[simp] theorem State.setFlag_fb : (s.setFlag f).fb = s.fb := rfl
@[simp] theorem State.setFlag_keys : (s.setFlag f).keys = s.keys := rfl
@[simp] theorem State.setFlag_mode : (s.setFlag f).mode = s.mode := rfl
@[simp] theorem State.setFlag_rngPos : (s.setFlag f).rngPos = s.rngPos := rfl
@[simp] theorem State.setFlag_result : (s.setFlag f).result = s.result := rfl
@[simp] theorem State.setFlag_faults : (s.setFlag f).faults = s.faults := rfl
@[simp] theorem State.setFlag_log : (s.setFlag f).log = s.log := rfl
@[simp] theorem State.setFlag_inbox : (s.setFlag f).inbox = s.inbox := rfl

end setFlag

section advance

variable (s : State)

@[simp] theorem State.advance_regs : (s.advance).regs = s.regs := rfl
@[simp] theorem State.advance_i : (s.advance).i = s.i := rfl
@[simp] theorem State.advance_sp : (s.advance).sp = s.sp := rfl
@[simp] theorem State.advance_dt : (s.advance).dt = s.dt := rfl
@[simp] theorem State.advance_st : (s.advance).st = s.st := rfl
@[simp] theorem State.advance_stack : (s.advance).stack = s.stack := rfl
@[simp] theorem State.advance_mem : (s.advance).mem = s.mem := rfl
@[simp] theorem State.advance_fb : (s.advance).fb = s.fb := rfl
@[simp] theorem State.advance_keys : (s.advance).keys = s.keys := rfl
@[simp] theorem State.advance_mode : (s.advance).mode = s.mode := rfl
@[simp] theorem State.advance_rngPos : (s.advance).rngPos = s.rngPos := rfl
@[simp] theorem State.advance_result : (s.advance).result = s.result := rfl
@[simp] theorem State.advance_faults : (s.advance).faults = s.faults := rfl
@[simp] theorem State.advance_log : (s.advance).log = s.log := rfl
@[simp] theorem State.advance_inbox : (s.advance).inbox = s.inbox := rfl
@[simp] theorem State.advance_pc : s.advance.pc = s.pc + 2#16 := rfl

end advance

section returns

variable (s : State) (r : Result)

@[simp] theorem State.returns_regs : (s.returns r).regs = s.regs := rfl
@[simp] theorem State.returns_i : (s.returns r).i = s.i := rfl
@[simp] theorem State.returns_pc : (s.returns r).pc = s.pc := rfl
@[simp] theorem State.returns_sp : (s.returns r).sp = s.sp := rfl
@[simp] theorem State.returns_dt : (s.returns r).dt = s.dt := rfl
@[simp] theorem State.returns_st : (s.returns r).st = s.st := rfl
@[simp] theorem State.returns_stack : (s.returns r).stack = s.stack := rfl
@[simp] theorem State.returns_mem : (s.returns r).mem = s.mem := rfl
@[simp] theorem State.returns_fb : (s.returns r).fb = s.fb := rfl
@[simp] theorem State.returns_keys : (s.returns r).keys = s.keys := rfl
@[simp] theorem State.returns_mode : (s.returns r).mode = s.mode := rfl
@[simp] theorem State.returns_rngPos : (s.returns r).rngPos = s.rngPos := rfl
@[simp] theorem State.returns_faults : (s.returns r).faults = s.faults := rfl
@[simp] theorem State.returns_log : (s.returns r).log = s.log := rfl
@[simp] theorem State.returns_inbox : (s.returns r).inbox = s.inbox := rfl
@[simp] theorem State.returns_result : (s.returns r).result = r := rfl

end returns

section skipIf

variable (s : State) (c : Bool)

@[simp] theorem State.skipIf_regs : (s.skipIf c).regs = s.regs := by cases c <;> rfl
@[simp] theorem State.skipIf_i : (s.skipIf c).i = s.i := by cases c <;> rfl
@[simp] theorem State.skipIf_sp : (s.skipIf c).sp = s.sp := by cases c <;> rfl
@[simp] theorem State.skipIf_dt : (s.skipIf c).dt = s.dt := by cases c <;> rfl
@[simp] theorem State.skipIf_st : (s.skipIf c).st = s.st := by cases c <;> rfl
@[simp] theorem State.skipIf_stack : (s.skipIf c).stack = s.stack := by cases c <;> rfl
@[simp] theorem State.skipIf_mem : (s.skipIf c).mem = s.mem := by cases c <;> rfl
@[simp] theorem State.skipIf_fb : (s.skipIf c).fb = s.fb := by cases c <;> rfl
@[simp] theorem State.skipIf_keys : (s.skipIf c).keys = s.keys := by cases c <;> rfl
@[simp] theorem State.skipIf_mode : (s.skipIf c).mode = s.mode := by cases c <;> rfl
@[simp] theorem State.skipIf_rngPos : (s.skipIf c).rngPos = s.rngPos := by cases c <;> rfl
@[simp] theorem State.skipIf_result : (s.skipIf c).result = s.result := by cases c <;> rfl
@[simp] theorem State.skipIf_faults : (s.skipIf c).faults = s.faults := by cases c <;> rfl
@[simp] theorem State.skipIf_log : (s.skipIf c).log = s.log := by cases c <;> rfl
@[simp] theorem State.skipIf_inbox : (s.skipIf c).inbox = s.inbox := by cases c <;> rfl
@[simp] theorem State.skipIf_pc : (s.skipIf c).pc = if c then s.pc + 2#16 else s.pc := by cases c <;> rfl

end skipIf

/-! ## Reading registers after an update -/

@[simp] theorem State.getV_setV_self (s : State) (x : RegIx) (b : Byte) : (s.setV x b).getV x = b := by
  simp [State.getV, State.setV]

theorem State.getV_setV_of_ne (s : State) {x k : RegIx} (b : Byte) (h : k ≠ x) : (s.setV x b).getV k = s.getV k := by
  have hne : x.toNat ≠ k.toNat := fun e => h (BitVec.eq_of_toNat_eq e.symm)
  simp [State.getV, State.setV, hne]

/-- The one fact about register writes: register `x` holds the new value, every other its old one. -/
theorem State.getV_setV (s : State) (x k : RegIx) (b : Byte) :
    (s.setV x b).getV k = if k = x then b else s.getV k := by
  by_cases h : k = x
  · subst h; simp
  · simp [h, State.getV_setV_of_ne s b h]

theorem State.getV_setFlag (s : State) (k : RegIx) (f : Byte) :
    (s.setFlag f).getV k = if k = vf then f else s.getV k := State.getV_setV s vf k f

@[simp] theorem State.getV_advance (s : State) (k : RegIx) : s.advance.getV k = s.getV k := rfl

@[simp] theorem State.getV_returns (s : State) (r : Result) (k : RegIx) : (s.returns r).getV k = s.getV k := rfl

@[simp] theorem State.getV_skipIf (s : State) (c : Bool) (k : RegIx) : (s.skipIf c).getV k = s.getV k := by
  cases c <;> rfl

/-- A state read through `getV` depends on `regs` alone. -/
theorem State.getV_congr {s t : State} (h : t.regs = s.regs) (k : RegIx) : t.getV k = s.getV k := by
  simp only [State.getV, h]

/-- Writing a run of registers changes nothing but registers. -/
theorem State.setRegsFrom_frame (s : State) (k : Nat) (bs : List Byte) :
    s.setRegsFrom k bs = { s with regs := (s.setRegsFrom k bs).regs } := by
  induction bs generalizing s k with
  | nil => rfl
  | cons b rest ih =>
    rw [State.setRegsFrom, ih]
    split <;> rfl

/-- After writing a run of registers from `V[k]` up, a register inside the run holds its byte, every other its old value. -/
theorem State.getV_setRegsFrom (s : State) (k : Nat) (bs : List Byte) (h : k + bs.length ≤ 16) (j : RegIx) :
    (s.setRegsFrom k bs).getV j
      = if k ≤ j.toNat ∧ j.toNat < k + bs.length then bs.getD (j.toNat - k) 0 else s.getV j := by
  induction bs generalizing s k with
  | nil => simp [State.setRegsFrom]
  | cons b rest ih =>
    have hk : k < 16 := by simp at h; omega
    rw [State.setRegsFrom, if_pos hk, ih _ _ (by simp at h; omega), State.getV_setV]
    have hj : j = BitVec.ofNat 4 k ↔ j.toNat = k := by
      constructor
      · rintro rfl; simp; omega
      · intro e; apply BitVec.eq_of_toNat_eq; simp [e]; omega
    simp only [List.length_cons, hj]
    by_cases h1 : j.toNat = k
    · simp [h1]
    · by_cases h2 : k + 1 ≤ j.toNat ∧ j.toNat < k + 1 + rest.length
      · have e : j.toNat - k = (j.toNat - (k + 1)) + 1 := by omega
        rw [if_pos h2, if_pos (by omega), e]; rfl
      · rw [if_neg h2, if_neg h1, if_neg (by omega)]

end Sys2Proof.Machine
end

