-- ==== Sys2Proof/Laws/Ops.lean ====
section
/-! SUPPORT. One lemma for each shared operation of the machine that says once everything it can do. -/

namespace Sys2Proof.Machine

/-! ## Ending an instruction -/

theorem finish_eq (s : State) : finish s = .next (s.returns .ok) := rfl

/-- Raising a fault writes the result and the run record, and nothing else (R216). -/
theorem raise_eq (f : FaultCode) (s : State) :
    raise f s = .next { s with result := .fault f, faults := s.faults ++ [f] } := rfl

/-! ## The call stack -/

/-- Everything `push` can do (R27). -/
theorem push_cases (a : Word) (s : State) :
    (∃ h : s.sp.toNat < 16, push a s = .ok { s with stack := s.stack.set s.sp.toNat a, sp := s.sp + 1#8 }) ∨
    (s.sp = 16#8 ∧ push a s = .error (.raised .stackOverflow)) ∨
    (16 < s.sp.toNat ∧ push a s = .error .outside) := by
  unfold push
  by_cases h : s.sp.toNat < 16
  · exact .inl ⟨h, dif_pos h⟩
  · right
    by_cases h' : s.sp = 16#8
    · exact .inl ⟨h', by simp [h']⟩
    · refine .inr ⟨?_, by simp [h, h']⟩
      have : s.sp.toNat ≠ 16 := fun e => h' (BitVec.eq_of_toNat_eq e)
      omega

/-- Everything `pop` can do (R27). -/
theorem pop_cases (s : State) :
    (s.sp = 0#8 ∧ pop s = .error (.raised .stackUnderflow)) ∨
    (0 < s.sp.toNat ∧ ∃ h : (s.sp - 1#8).toNat < 16,
      pop s = .ok ({ s with sp := s.sp - 1#8 }, s.stack[(s.sp - 1#8).toNat])) ∨
    (16 < s.sp.toNat ∧ pop s = .error .outside) := by
  unfold pop
  by_cases h0 : s.sp = 0#8
  · exact .inl ⟨h0, if_pos h0⟩
  · right
    have hpos : 0 < s.sp.toNat := by
      rcases Nat.eq_zero_or_pos s.sp.toNat with e | e
      · exact absurd (BitVec.eq_of_toNat_eq e) h0
      · exact e
    by_cases h : (s.sp - 1#8).toNat < 16
    · exact .inl ⟨hpos, h, by rw [if_neg h0]; exact dif_pos h⟩
    · refine .inr ⟨?_, by rw [if_neg h0]; exact dif_neg h⟩
      rw [BitVec.toNat_sub] at h
      simp at h
      omega

/-- A pop lowers SP by one, in numbers. -/
theorem sp_pred_toNat (s : State) (h : 0 < s.sp.toNat) : (s.sp - 1#8).toNat = s.sp.toNat - 1 := by
  rw [BitVec.toNat_sub]
  have := s.sp.isLt
  simp
  omega

/-- A push raises SP by one, in numbers. -/
theorem sp_succ_toNat (s : State) (h : s.sp.toNat < 16) : (s.sp + 1#8).toNat = s.sp.toNat + 1 := by
  rw [BitVec.toNat_add]
  simp
  omega

/-! ## The canonical form of memory -/

/-- Memory after reset lists nothing and is in canonical form, under any glyph table. -/
theorem State.resetWith_mem_wf (g : GlyphTable) : (State.resetWith g).mem.wf := by
  simp [State.resetWith, Memory.wf]

/-- Placing an opcode keeps the canonical form. -/
theorem placeOpcode_mem_wf (op : Word) (s : State) (h : s.mem.wf) : (placeOpcode op s).mem.wf :=
  s.mem.writeBytes_wf _ _ h

/-! ## Keys -/

/-- Pressing a key sets its own bit and leaves every other (R192). -/
theorem getLsbD_pressKey (keys : BitVec 16) (k : Key) (j : Nat) :
    (pressKey keys k).getLsbD j = (keys.getLsbD j || decide (j = k.toNat)) := by
  have hk : k.toNat < 16 := k.isLt
  simp only [pressKey, BitVec.getLsbD_or, BitVec.getLsbD_twoPow, hk, decide_true, Bool.true_and, eq_comm]

/-- Releasing a key clears its own bit and leaves every other (R193). -/
theorem getLsbD_releaseKey (keys : BitVec 16) (k : Key) (j : Nat) :
    (releaseKey keys k).getLsbD j = (keys.getLsbD j && !decide (j = k.toNat)) := by
  by_cases hj : j < 16
  · have hk : k.toNat < 16 := k.isLt
    simp only [releaseKey, BitVec.getLsbD_and, BitVec.getLsbD_not, BitVec.getLsbD_twoPow, hj, hk, decide_true,
      Bool.true_and, eq_comm]
  · simp [releaseKey, BitVec.getLsbD_of_ge _ _ (Nat.le_of_not_lt hj)]

end Sys2Proof.Machine
end

