-- ==== Sys2Proof/Laws/PerInstr.lean ====
section
/-! SUPPORT. Laws said once for each instruction, as syntax. -/

namespace Sys2Proof.Laws.TableRow

/-- The encoder puts an instruction on its own row of the opcode map: the row of its mnemonic stands in the table and its
fixed bits are the opcode's (spec/30_encoding.md R93). -/
def Statement (i : Instr) : Prop :=
  ∃ r ∈ opcodeTable, r.mnemonic = i.mnemonic ∧ encode i &&& r.mask = r.pattern

/-- Format `NNN` (R92): masking leaves the first digit. -/
theorem mask_nnn (t : BitVec 4) (nnn : Imm12) : (t ++ nnn : Word) &&& 0xF000#16 = t ++ 0x000#12 := by
  ext i hi
  simp only [BitVec.getElem_and, BitVec.getElem_append]
  interval_cases i <;> simp

/-- Format `XKK` (R92): masking leaves the first digit. -/
theorem mask_xkk (t : BitVec 4) (x : RegIx) (kk : Byte) :
    (t ++ x ++ kk : Word) &&& 0xF000#16 = t ++ 0x0#4 ++ 0x00#8 := by
  ext i hi
  simp only [BitVec.getElem_and, BitVec.getElem_append]
  interval_cases i <;> simp

/-- Format `XYN` (R92): masking leaves the first digit. -/
theorem mask_xyn (t : BitVec 4) (x y : RegIx) (n : BitVec 4) :
    (t ++ x ++ y ++ n : Word) &&& 0xF000#16 = t ++ 0x0#4 ++ 0x0#4 ++ 0x0#4 := by
  ext i hi
  simp only [BitVec.getElem_and, BitVec.getElem_append]
  interval_cases i <;> simp

/-- Format `XY` (R92): masking leaves the first and the last digit. -/
theorem mask_xy (t f : BitVec 4) (x y : RegIx) :
    (t ++ x ++ y ++ f : Word) &&& 0xF00F#16 = t ++ 0x0#4 ++ 0x0#4 ++ f := by
  ext i hi
  simp only [BitVec.getElem_and, BitVec.getElem_append]
  interval_cases i <;> simp

/-- Format `X` (R92): masking leaves the first digit and the low byte. -/
theorem mask_x (t : BitVec 4) (x : RegIx) (ff : Byte) :
    (t ++ x ++ ff : Word) &&& 0xF0FF#16 = t ++ 0x0#4 ++ ff := by
  ext i hi
  simp only [BitVec.getElem_and, BitVec.getElem_append]
  interval_cases i <;> simp

theorem cls : Statement (.cls) :=
  ⟨⟨"CLS", 0xFFFF, 0x00E0⟩, by decide, rfl, rfl⟩

theorem ret : Statement (.ret) :=
  ⟨⟨"RET", 0xFFFF, 0x00EE⟩, by decide, rfl, rfl⟩

theorem jp (nnn : Imm12) : Statement (.jp nnn) :=
  ⟨⟨"JP", 0xF000, 0x1000⟩, by decide, rfl, mask_nnn _ _⟩

theorem call (nnn : Imm12) : Statement (.call nnn) :=
  ⟨⟨"CALL", 0xF000, 0x2000⟩, by decide, rfl, mask_nnn _ _⟩

theorem seImm (x : RegIx) (kk : Byte) : Statement (.seImm x kk) :=
  ⟨⟨"SE_IMM", 0xF000, 0x3000⟩, by decide, rfl, mask_xkk _ _ _⟩

theorem sneImm (x : RegIx) (kk : Byte) : Statement (.sneImm x kk) :=
  ⟨⟨"SNE_IMM", 0xF000, 0x4000⟩, by decide, rfl, mask_xkk _ _ _⟩

theorem seReg (x : RegIx) (y : RegIx) : Statement (.seReg x y) :=
  ⟨⟨"SE_REG", 0xF00F, 0x5000⟩, by decide, rfl, mask_xy _ _ _ _⟩

theorem ldImm (x : RegIx) (kk : Byte) : Statement (.ldImm x kk) :=
  ⟨⟨"LD_IMM", 0xF000, 0x6000⟩, by decide, rfl, mask_xkk _ _ _⟩

theorem addImm (x : RegIx) (kk : Byte) : Statement (.addImm x kk) :=
  ⟨⟨"ADD_IMM", 0xF000, 0x7000⟩, by decide, rfl, mask_xkk _ _ _⟩

theorem ldReg (x : RegIx) (y : RegIx) : Statement (.ldReg x y) :=
  ⟨⟨"LD_REG", 0xF00F, 0x8000⟩, by decide, rfl, mask_xy _ _ _ _⟩

theorem orReg (x : RegIx) (y : RegIx) : Statement (.orReg x y) :=
  ⟨⟨"OR", 0xF00F, 0x8001⟩, by decide, rfl, mask_xy _ _ _ _⟩

theorem andReg (x : RegIx) (y : RegIx) : Statement (.andReg x y) :=
  ⟨⟨"AND", 0xF00F, 0x8002⟩, by decide, rfl, mask_xy _ _ _ _⟩

theorem xorReg (x : RegIx) (y : RegIx) : Statement (.xorReg x y) :=
  ⟨⟨"XOR", 0xF00F, 0x8003⟩, by decide, rfl, mask_xy _ _ _ _⟩

theorem addReg (x : RegIx) (y : RegIx) : Statement (.addReg x y) :=
  ⟨⟨"ADD_REG", 0xF00F, 0x8004⟩, by decide, rfl, mask_xy _ _ _ _⟩

theorem sub (x : RegIx) (y : RegIx) : Statement (.sub x y) :=
  ⟨⟨"SUB", 0xF00F, 0x8005⟩, by decide, rfl, mask_xy _ _ _ _⟩

theorem shr (x : RegIx) (y : RegIx) : Statement (.shr x y) :=
  ⟨⟨"SHR", 0xF00F, 0x8006⟩, by decide, rfl, mask_xy _ _ _ _⟩

theorem subn (x : RegIx) (y : RegIx) : Statement (.subn x y) :=
  ⟨⟨"SUBN", 0xF00F, 0x8007⟩, by decide, rfl, mask_xy _ _ _ _⟩

theorem shl (x : RegIx) (y : RegIx) : Statement (.shl x y) :=
  ⟨⟨"SHL", 0xF00F, 0x800E⟩, by decide, rfl, mask_xy _ _ _ _⟩

theorem sneReg (x : RegIx) (y : RegIx) : Statement (.sneReg x y) :=
  ⟨⟨"SNE_REG", 0xF00F, 0x9000⟩, by decide, rfl, mask_xy _ _ _ _⟩

theorem ldI (nnn : Imm12) : Statement (.ldI nnn) :=
  ⟨⟨"LD_I", 0xF000, 0xA000⟩, by decide, rfl, mask_nnn _ _⟩

theorem jpV0 (nnn : Imm12) : Statement (.jpV0 nnn) :=
  ⟨⟨"JP_V0", 0xF000, 0xB000⟩, by decide, rfl, mask_nnn _ _⟩

theorem rnd (x : RegIx) (kk : Byte) : Statement (.rnd x kk) :=
  ⟨⟨"RND", 0xF000, 0xC000⟩, by decide, rfl, mask_xkk _ _ _⟩

theorem drw (x : RegIx) (y : RegIx) (n : Nat) : Statement (.drw x y n) :=
  ⟨⟨"DRW", 0xF000, 0xD000⟩, by decide, rfl, mask_xyn _ _ _ _⟩

theorem skp (x : RegIx) : Statement (.skp x) :=
  ⟨⟨"SKP", 0xF0FF, 0xE09E⟩, by decide, rfl, mask_x _ _ _⟩

theorem sknp (x : RegIx) : Statement (.sknp x) :=
  ⟨⟨"SKNP", 0xF0FF, 0xE0A1⟩, by decide, rfl, mask_x _ _ _⟩

theorem ldVxDt (x : RegIx) : Statement (.ldVxDt x) :=
  ⟨⟨"LD_VX_DT", 0xF0FF, 0xF007⟩, by decide, rfl, mask_x _ _ _⟩

theorem ldVxK (x : RegIx) : Statement (.ldVxK x) :=
  ⟨⟨"LD_VX_K", 0xF0FF, 0xF00A⟩, by decide, rfl, mask_x _ _ _⟩

theorem ldDtVx (x : RegIx) : Statement (.ldDtVx x) :=
  ⟨⟨"LD_DT_VX", 0xF0FF, 0xF015⟩, by decide, rfl, mask_x _ _ _⟩

theorem ldStVx (x : RegIx) : Statement (.ldStVx x) :=
  ⟨⟨"LD_ST_VX", 0xF0FF, 0xF018⟩, by decide, rfl, mask_x _ _ _⟩

theorem addIVx (x : RegIx) : Statement (.addIVx x) :=
  ⟨⟨"ADD_I_VX", 0xF0FF, 0xF01E⟩, by decide, rfl, mask_x _ _ _⟩

theorem ldFVx (x : RegIx) : Statement (.ldFVx x) :=
  ⟨⟨"LD_F_VX", 0xF0FF, 0xF029⟩, by decide, rfl, mask_x _ _ _⟩

theorem ldBVx (x : RegIx) : Statement (.ldBVx x) :=
  ⟨⟨"LD_B_VX", 0xF0FF, 0xF033⟩, by decide, rfl, mask_x _ _ _⟩

theorem stRegs (x : RegIx) : Statement (.stRegs x) :=
  ⟨⟨"ST_REGS", 0xF0FF, 0xF055⟩, by decide, rfl, mask_x _ _ _⟩

theorem ldRegs (x : RegIx) : Statement (.ldRegs x) :=
  ⟨⟨"LD_REGS", 0xF0FF, 0xF065⟩, by decide, rfl, mask_x _ _ _⟩

end Sys2Proof.Laws.TableRow
end

