-- ==== Sys2Proof/Laws/Safety.lean ====
section
/-! SUPPORT. The laws of the terms claims are made in. -/

namespace Sys2Proof.Machine

/-- What memory holds at an address is what the next fetch sees there (R63): later proofs show a read and never open the
fetch. -/
theorem State.fetchSees_of_read (s : State) {a b : Nat} (h : (s.mem.read a).toNat = b) : s.fetchSees a b := by
  subst h
  have hlo := (s.mem.read (s.pc.toNat + 1)).isLt
  have hop : s.fetch.toNat = (s.mem.read s.pc.toNat).toNat * 256 + (s.mem.read (s.pc.toNat + 1)).toNat := by
    rw [State.fetch, BitVec.toNat_append, ← Nat.shiftLeft_add_eq_or_of_lt hlo, Nat.shiftLeft_eq]
  constructor <;> intro e <;> rw [hop, ← s.mem.read_mod a, e, Memory.read_mod] <;> omega

/-- Telling apart is symmetric. -/
theorem toldApart.symm {i j : Instr} (h : toldApart i j) : toldApart j i := by
  obtain ⟨s, t, u, ht, hu, p, hp⟩ := h
  exact ⟨s, u, t, hu, ht, p, fun e => hp (by cases p <;> exact e.symm)⟩

end Sys2Proof.Machine
end

