-- ==== Sys2Proof/Laws/Transactions.lean ====
section
/-! SUPPORT. What a TICK, a transaction and a step can do, each said once. -/

namespace Sys2Proof.Machine

/-- A TICK in RUN whose opcode decodes runs the instruction on the advanced state (R111). -/
theorem tick_of_decoded {s : State} {i : Instr} (hm : s.mode = .run) (hd : decode s.fetch = .ok i) :
    tick s = exec i s.advance := by
  simp [tick, hm, tickRun, hd]

/-- Everything a TICK can do (R111, R113, R114, R115). -/
theorem tick_cases (s : State) :
    (∃ i, s.mode = .run ∧ decode s.fetch = .ok i ∧ tick s = exec i s.advance) ∨
    (s.mode = .run ∧ (∃ r, decode s.fetch = .error r) ∧ tick s = nopUnassigned s.fetch s) ∨
    (∃ x, s.mode = .waitKey x ∧ tick s = .next (s.returns .waiting)) ∨
    (s.mode = .cancelled ∧ tick s = .next (s.returns .cancelled)) := by
  cases hm : s.mode with
  | run =>
    cases hd : decode s.fetch with
    | ok i => exact .inl ⟨i, rfl, rfl, tick_of_decoded hm hd⟩
    | error r => exact .inr (.inl ⟨rfl, ⟨r, rfl⟩, by simp [tick, hm, tickRun, hd]⟩)
  | waitKey x => exact .inr (.inr (.inl ⟨x, rfl, by simp [tick, hm]⟩))
  | cancelled => exact .inr (.inr (.inr ⟨rfl, by simp [tick, hm]⟩))

/-- Everything a step can do: the first queued transaction, or a TICK when none is queued (R72). -/
theorem step_cases (s : State) :
    (s.inbox = [] ∧ step s = tick s) ∨
    (∃ t rest, s.inbox = t :: rest ∧ step s = transact t { s with inbox := rest }) := by
  cases h : s.inbox with
  | nil => exact .inl ⟨rfl, by simp [step, nextTransaction, h]⟩
  | cons t rest => exact .inr ⟨t, rest, rfl, by simp [step, nextTransaction, h]⟩

/-- Everything LOAD can do (R191, R214). -/
theorem doLoad_cases (bytes : List Byte) (s : State) :
    (bytes.length ≤ 3584 ∧ doLoad bytes s = finish { s with mem := s.mem.writeBytes 0x200 bytes }) ∨
    (3584 < bytes.length ∧ doLoad bytes s = raise .capacityExceeded s) := by
  by_cases h : bytes.length ≤ 3584
  · exact .inl ⟨h, if_neg (by simp only [Config.memSize, Config.progBase]; omega)⟩
  · exact .inr ⟨by omega, if_pos (by simp only [Config.memSize, Config.progBase]; omega)⟩

/-- A mapped key-down completes a wait, and nothing else does (R172, R192). -/
theorem completeWait_cases (k : Key) (s : State) :
    (∃ x, s.mode = .waitKey x ∧ completeWait k s = { s with mode := .run }.setV x (keyByte k)) ∨
    ((∀ x, s.mode ≠ .waitKey x) ∧ completeWait k s = s) := by
  cases h : s.mode with
  | waitKey x => exact .inl ⟨x, rfl, by simp [completeWait, h]⟩
  | run => exact .inr ⟨by simp, by simp [completeWait, h]⟩
  | cancelled => exact .inr ⟨by simp, by simp [completeWait, h]⟩

end Sys2Proof.Machine
end

