-- ==== Sys2Proof/Tests/Slice0.lean ====
section
/-! SUPPORT. The model's own tests. Expected results come from spec/95_test_vectors.md (V<n>, S<n>: the vectors of that file),
from the encodings of spec/30_encoding.md R93 and from the rules; then one witness for each obligation that has hypotheses. -/

namespace Sys2Proof.Machine

/-! ## Helpers -/

/-- The state one step leaves (the state before it, should it stop). -/
def stepOf (s : State) : State := match step s with | .next t => t | .fault _ => s | .refused _ => s

/-- The state that `op`, placed at PC, leaves. -/
def runs (op : Nat) (s : State) : State := stepOf (s.withFetchWord 16 op)

/-- The state that one transaction of the host leaves. -/
def sends (tr : Transaction) (s : State) : State := match transact tr s with | .next t => t | .fault _ => s | .refused _ => s

/-- The state after reset, with some registers set. -/
def withRegs : List (RegIx × Byte) → State
  | [] => State.reset
  | (x, b) :: rest => (withRegs rest).setV x b

/-- Those registers and the index register. -/
def withRegsI (i : Word) (rs : List (RegIx × Byte)) : State := { withRegs rs with i := i }

/-- The state after reset with call depth `n`, the newest return address being `a`. -/
def withStack (n : Byte) (a : Word) : State :=
  { State.reset with sp := n, stack := Vector.replicate 16 a }

/-! ## Well-formed instructions -/

theorem test_wellFormed_refuses_sixteen_rows : (Instr.drw 1#4 2#4 16).wellFormed = false := by decide

theorem test_wellFormed_accepts_fifteen_rows : (Instr.drw 1#4 2#4 15).wellFormed = true := by decide

/-! ## Words written out from the patterns of R93, digit by digit -/

theorem test_decode_group0 : decode 0x00E0#16 = .ok .cls ∧ decode 0x00EE#16 = .ok .ret := by decide

theorem test_decode_control :
    decode 0x1ABC#16 = .ok (.jp 0xABC#12) ∧ decode 0x2300#16 = .ok (.call 0x300#12) ∧
    decode 0x3A05#16 = .ok (.seImm 0xA#4 0x05#8) ∧ decode 0x4A05#16 = .ok (.sneImm 0xA#4 0x05#8) ∧
    decode 0x5120#16 = .ok (.seReg 1#4 2#4) ∧ decode 0x9340#16 = .ok (.sneReg 3#4 4#4) ∧
    decode 0xB123#16 = .ok (.jpV0 0x123#12) := by decide

theorem test_decode_load_and_logic :
    decode 0x6A2F#16 = .ok (.ldImm 0xA#4 0x2F#8) ∧ decode 0x73FF#16 = .ok (.addImm 3#4 0xFF#8) ∧
    decode 0x8120#16 = .ok (.ldReg 1#4 2#4) ∧ decode 0x8121#16 = .ok (.orReg 1#4 2#4) ∧
    decode 0x8122#16 = .ok (.andReg 1#4 2#4) ∧ decode 0x8123#16 = .ok (.xorReg 1#4 2#4) := by decide

theorem test_decode_arithmetic :
    decode 0x8F14#16 = .ok (.addReg 0xF#4 1#4) ∧ decode 0x81F5#16 = .ok (.sub 1#4 0xF#4) ∧
    decode 0x84A6#16 = .ok (.shr 4#4 0xA#4) ∧ decode 0x8127#16 = .ok (.subn 1#4 2#4) ∧
    decode 0x840E#16 = .ok (.shl 4#4 0#4) ∧ decode 0xC30F#16 = .ok (.rnd 3#4 0x0F#8) := by decide

theorem test_decode_index_and_memory :
    decode 0xA2F0#16 = .ok (.ldI 0x2F0#12) ∧ decode 0xF21E#16 = .ok (.addIVx 2#4) ∧ decode 0xF629#16 = .ok (.ldFVx 6#4) ∧
    decode 0xF333#16 = .ok (.ldBVx 3#4) ∧ decode 0xF255#16 = .ok (.stRegs 2#4) ∧ decode 0xFF65#16 = .ok (.ldRegs 0xF#4) := by decide

theorem test_decode_display_keys_timers :
    decode 0xD125#16 = .ok (.drw 1#4 2#4 5) ∧ decode 0xE49E#16 = .ok (.skp 4#4) ∧ decode 0xE4A1#16 = .ok (.sknp 4#4) ∧
    decode 0xF30A#16 = .ok (.ldVxK 3#4) ∧ decode 0xF507#16 = .ok (.ldVxDt 5#4) ∧ decode 0xF515#16 = .ok (.ldDtVx 5#4) ∧
    decode 0xF518#16 = .ok (.ldStVx 5#4) := by decide

/-- V1 to V8: unassigned opcodes. -/
theorem test_decode_unassigned :
    decode 0x0000#16 = .error (.unassigned 0x0000#16) ∧ decode 0x5121#16 = .error (.unassigned 0x5121#16) ∧
    decode 0x9121#16 = .error (.unassigned 0x9121#16) ∧ decode 0x8128#16 = .error (.unassigned 0x8128#16) ∧
    decode 0xE19F#16 = .error (.unassigned 0xE19F#16) ∧ decode 0xF1FF#16 = .error (.unassigned 0xF1FF#16) ∧
    decode 0x00E1#16 = .error (.unassigned 0x00E1#16) ∧ decode 0x01E0#16 = .error (.unassigned 0x01E0#16) := by decide

/-- R61: the high byte comes first; what follows the instruction is answered; one byte is too few. -/
theorem test_decodeBytes :
    decodeBytes [0x6A#8, 0x2F#8, 0x77#8] = .ok (.ldImm 0xA#4 0x2F#8, [0x77#8]) ∧ decodeBytes [0x6A#8] = .error .truncated := by decide

theorem test_decodeTableWord :
    decodeTableWord 16 0xD125 = some (.drw 1#4 2#4 5) ∧ decodeTableWord 16 0x5121 = none := by decide

theorem test_encode :
    encode (.drw 1#4 2#4 5) = 0xD125#16 ∧ encode (.shr 4#4 0xA#4) = 0x84A6#16 ∧
    encodeBytes (.jp 0xABC#12) = [0x1A#8, 0xBC#8] := by decide

/-! ## The cycle -/

/-- V1: memory never loaded; the log record and the result. -/
theorem test_unassigned_logs :
    (stepOf State.reset).log = [.unassignedOpcode 0x0000#16 0x0200#16] ∧ (stepOf State.reset).result = .nop 0x0000#16 ∧
    (stepOf State.reset).pc = 0x0202#16 := by decide

/-- V9: the fetch wraps from 0xFFF to 0x000, PC is not reduced. -/
theorem test_fetch_wraps :
    (runs 0x0123 { State.reset with pc := 0x0FFF#16 }).log = [.unassignedOpcode 0x0123#16 0x0FFF#16] ∧
    (runs 0x0123 { State.reset with pc := 0x0FFF#16 }).pc = 0x1001#16 := by decide

/-- V10: the fetch address is PC modulo 4096. -/
theorem test_fetch_reduces_pc :
    (stepOf { sends (.load [0x6A#8, 0x11#8]) State.reset with pc := 0x1200#16 }).getV 0xA#4 = 0x11#8 := by decide

/-! ## Control flow -/

/-- V13: the whole 16-bit value comes back. -/
theorem test_ret :
    (runs 0x00EE (withStack 16#8 0x1202#16)).pc = 0x1202#16 ∧ (runs 0x00EE (withStack 16#8 0x1202#16)).sp = 15#8 := by decide

/-- V12. -/
theorem test_ret_underflow :
    (runs 0x00EE State.reset).result = .fault .stackUnderflow ∧ (runs 0x00EE State.reset).pc = 0x0202#16 ∧
    (runs 0x00EE State.reset).mode = .run := by decide

/-- V14. -/
theorem test_jp : (runs 0x1ABC State.reset).pc = 0x0ABC#16 := by decide

/-- V17, V19: the 16th call; the pushed PC wraps at 16 bits. -/
theorem test_call :
    (runs 0x2300 (withStack 15#8 0#16)).stack[15] = 0x0202#16 ∧ (runs 0x2300 (withStack 15#8 0#16)).sp = 16#8 ∧
    (runs 0x2300 { withStack 0#8 7#16 with pc := 0xFFFE#16 }).stack[0] = 0x0000#16 := by decide

/-- V18. -/
theorem test_call_overflow :
    (runs 0x2300 (withStack 16#8 7#16)).result = .fault .stackOverflow ∧
    (runs 0x2300 (withStack 16#8 7#16)).pc = 0x0202#16 ∧
    (runs 0x2300 (withStack 16#8 7#16)).stack = Vector.replicate 16 7#16 := by decide

/-- V21, V22. -/
theorem test_seImm :
    (runs 0x3A05 (withRegs [(0xA, 0x05)])).pc = 0x0204#16 ∧ (runs 0x3A05 (withRegs [(0xA, 0x06)])).pc = 0x0202#16 := by decide

/-- V23. -/
theorem test_seImm_wraps : (runs 0x3A05 { withRegs [(0xA, 0x05)] with pc := 0xFFFC#16 }).pc = 0x0000#16 := by decide

/-- V25. -/
theorem test_sneImm :
    (runs 0x4A05 (withRegs [(0xA, 0x05)])).pc = 0x0202#16 ∧ (runs 0x4A05 (withRegs [(0xA, 0x06)])).pc = 0x0204#16 := by decide

/-- V26. -/
theorem test_seReg :
    (runs 0x5120 (withRegs [(1, 0x7F), (2, 0x7F)])).pc = 0x0204#16 ∧
    (runs 0x5120 (withRegs [(1, 0x7F), (2, 0x7E)])).pc = 0x0202#16 := by decide

/-- V28. -/
theorem test_sneReg :
    (runs 0x9120 (withRegs [(1, 1), (2, 2)])).pc = 0x0204#16 ∧ (runs 0x9120 (withRegs [(1, 2), (2, 2)])).pc = 0x0202#16 := by decide

/-- V31, V32: kept above 0xFFF; always V0. -/
theorem test_jpV0 :
    (runs 0xBFFF (withRegs [(0, 0xFF)])).pc = 0x10FE#16 ∧ (runs 0xB123 (withRegs [(1, 0xFF)])).pc = 0x0123#16 := by decide

/-! ## Load, arithmetic, logic, shift, random -/

/-- V33. -/
theorem test_ldImm : (runs 0x6A2F (withRegs [])).getV 0xA = 0x2F := by decide

/-- V35, V36: no carry flag; VF as a plain destination. -/
theorem test_addImm :
    (runs 0x7305 (withRegs [(3, 0xFE), (0xF, 0x07)])).getV 3 = 0x03 ∧
    (runs 0x7305 (withRegs [(3, 0xFE), (0xF, 0x07)])).getV 0xF = 0x07 ∧
    (runs 0x7F01 (withRegs [(0xF, 0xFF)])).getV 0xF = 0x00 := by decide

/-- V37. -/
theorem test_ldReg : (runs 0x8120 (withRegs [(2, 0x9C)])).getV 1 = 0x9C := by decide

/-- V38: VF is left alone. -/
theorem test_or :
    (runs 0x8121 (withRegs [(1, 0xF0), (2, 0x0F), (0xF, 0x09)])).getV 1 = 0xFF ∧
    (runs 0x8121 (withRegs [(1, 0xF0), (2, 0x0F), (0xF, 0x09)])).getV 0xF = 0x09 := by decide

/-- V39. -/
theorem test_and : (runs 0x8122 (withRegs [(1, 0xF0), (2, 0x3C)])).getV 1 = 0x30 := by decide

/-- V40, V41. -/
theorem test_xor :
    (runs 0x8123 (withRegs [(1, 0xF0), (2, 0x3C)])).getV 1 = 0xCC ∧ (runs 0x8113 (withRegs [(1, 0xF0)])).getV 1 = 0x00 := by decide

/-- V42 (S2), V44: the old VF is the addend. -/
theorem test_addReg :
    (runs 0x8124 (withRegs [(1, 0xFF), (2, 0x01)])).getV 1 = 0x00 ∧
    (runs 0x8124 (withRegs [(1, 0xFF), (2, 0x01)])).getV 0xF = 0x01 ∧
    (runs 0x81F4 (withRegs [(1, 0xF0), (0xF, 0x20)])).getV 1 = 0x10 ∧
    (runs 0x81F4 (withRegs [(1, 0xF0), (0xF, 0x20)])).getV 0xF = 0x01 := by decide

/-- V45: the sum overwrites the carry. -/
theorem test_addReg_into_vf : (runs 0x8F14 (withRegs [(0xF, 0xF0), (1, 0x20)])).getV 0xF = 0x10 := by decide

/-- V48 (S3), V49: equal operands give 0. -/
theorem test_sub :
    (runs 0x8125 (withRegs [(1, 0x05), (2, 0x0A)])).getV 1 = 0xFB ∧
    (runs 0x8125 (withRegs [(1, 0x05), (2, 0x0A)])).getV 0xF = 0x00 ∧
    (runs 0x8125 (withRegs [(1, 0x07), (2, 0x07)])).getV 1 = 0x00 ∧
    (runs 0x8125 (withRegs [(1, 0x07), (2, 0x07)])).getV 0xF = 0x00 := by decide

/-- V50, V52, V53 (D5). -/
theorem test_sub_with_vf :
    (runs 0x81F5 (withRegs [(1, 0x0A), (0xF, 0x05)])).getV 1 = 0x09 ∧
    (runs 0x81F5 (withRegs [(1, 0x0A), (0xF, 0x05)])).getV 0xF = 0x01 ∧
    (runs 0x8F15 (withRegs [(0xF, 0x0A), (1, 0x05)])).getV 0xF = 0xFC ∧
    (runs 0x8F15 (withRegs [(0xF, 0x03), (1, 0x05)])).getV 0xF = 0xFB := by decide

/-- V55, V56: y is ignored. -/
theorem test_shr :
    (runs 0x84A6 (withRegs [(4, 0x05), (0xA, 0xFF)])).getV 4 = 0x02 ∧
    (runs 0x84A6 (withRegs [(4, 0x05), (0xA, 0xFF)])).getV 0xF = 0x01 ∧ (runs 0x8406 (withRegs [(4, 0x80)])).getV 4 = 0x40 ∧
    (runs 0x8406 (withRegs [(4, 0x80)])).getV 0xF = 0x00 := by decide

/-- V57 (D5). -/
theorem test_shr_vf : (runs 0x8F06 (withRegs [(0xF, 0xFF)])).getV 0xF = 0x00 := by decide

/-- V58. -/
theorem test_subn :
    (runs 0x8127 (withRegs [(1, 0x05), (2, 0x0A)])).getV 1 = 0x05 ∧
    (runs 0x8127 (withRegs [(1, 0x05), (2, 0x0A)])).getV 0xF = 0x01 ∧
    (runs 0x8127 (withRegs [(1, 0x0A), (2, 0x05)])).getV 1 = 0xFB ∧
    (runs 0x8127 (withRegs [(1, 0x0A), (2, 0x05)])).getV 0xF = 0x00 ∧
    (runs 0x8127 (withRegs [(1, 0x07), (2, 0x07)])).getV 1 = 0x00 ∧
    (runs 0x8127 (withRegs [(1, 0x07), (2, 0x07)])).getV 0xF = 0x00 := by decide

/-- V59, V59b (D5). -/
theorem test_subn_with_vf :
    (runs 0x81F7 (withRegs [(1, 0x05), (0xF, 0x0A)])).getV 1 = 0xFC ∧
    (runs 0x81F7 (withRegs [(1, 0x05), (0xF, 0x0A)])).getV 0xF = 0x01 ∧
    (runs 0x8F17 (withRegs [(0xF, 0x05), (1, 0x0A)])).getV 0xF = 0x09 := by decide

/-- V59e. -/
theorem test_shl :
    (runs 0x840E (withRegs [(4, 0x81)])).getV 4 = 0x02 ∧ (runs 0x840E (withRegs [(4, 0x81)])).getV 0xF = 0x01 ∧
    (runs 0x840E (withRegs [(4, 0x40)])).getV 4 = 0x80 ∧ (runs 0x840E (withRegs [(4, 0x40)])).getV 0xF = 0x00 := by decide

/-- V59f (D5). -/
theorem test_shl_vf :
    (runs 0x8F0E (withRegs [(0xF, 0x80)])).getV 0xF = 0x02 ∧ (runs 0x8F0E (withRegs [(0xF, 0x7F)])).getV 0xF = 0x00 := by decide

/-- V59h: a byte is consumed whatever the mask. -/
theorem test_rnd_consumes : (runs 0xC300 State.reset).rngPos = 1 := by decide

/-- V59h, V59i, for every stream. -/
theorem test_rnd_masks :
    (∀ b : Byte, b &&& 0xFF#8 = b ∧ b &&& 0x00#8 = 0x00#8) ∧
    (runs 0xC3FF State.reset).getV 3 = Config.rngStream 0 &&& 0xFF#8 := ⟨by decide, rfl⟩

/-! ## Index and memory -/

/-- V62. -/
theorem test_ldI : (runs 0xA2F0 (withRegsI 0xFFFF#16 [])).i = 0x02F0#16 := by decide

/-- V64, V66: no 12-bit wrap, 16-bit wrap, no flag. -/
theorem test_addIVx :
    (runs 0xF21E (withRegsI 0x0FFF#16 [(2, 1)])).i = 0x1000#16 ∧
    (runs 0xF21E (withRegsI 0xFF01#16 [(2, 0xFF), (0xF, 7)])).i = 0x0000#16 ∧
    (runs 0xF21E (withRegsI 0xFF01#16 [(2, 0xFF), (0xF, 7)])).getV 0xF = 7 := by decide

/-- V67, V68: Vx is not masked. -/
theorem test_ldFVx :
    (runs 0xF629 (withRegs [(6, 0x0A)])).i = 0x0032#16 ∧ (runs 0xF629 (withRegs [(6, 0xFF)])).i = 0x04FB#16 := by decide

/-- V69 (S5). -/
theorem test_ldBVx :
    (runs 0xF333 (withRegsI 0x300#16 [(3, 0x9D)])).mem.readBytes 0x300 3 = [1, 5, 7] ∧
    (runs 0xF333 (withRegsI 0x300#16 [(3, 0xFF)])).mem.readBytes 0x300 3 = [2, 5, 5] := by decide

/-- V70, V71: into the glyph area; I modulo 4096. -/
theorem test_ldBVx_wraps :
    (runs 0xF333 (withRegsI 0xFFF#16 [(3, 0xC8)])).mem.readBytes 0xFFF 3 = [2, 0, 0] ∧
    (runs 0xF333 (withRegsI 0x1300#16 [(3, 0x6D)])).mem.readBytes 0x300 3 = [1, 0, 9] ∧
    (runs 0xF333 (withRegsI 0x1300#16 [(3, 0x6D)])).i = 0x1300#16 := by decide

/-- V72: V3 is not stored, I is unchanged. -/
theorem test_stRegs :
    (runs 0xF255 (withRegsI 0x300#16 [(0, 0x11), (1, 0x22), (2, 0x33), (3, 0x44)])).mem.readBytes 0x300 4 = [0x11, 0x22, 0x33, 0x00] ∧
    (runs 0xF255 (withRegsI 0x300#16 [])).i = 0x300#16 := by decide

/-- V75. -/
theorem test_stRegs_wraps :
    (runs 0xF255 (withRegsI 0xFFE#16 [(0, 0xAA), (1, 0xBB), (2, 0xCC)])).mem.readBytes 0xFFE 3 = [0xAA, 0xBB, 0xCC] := by decide

/-- V78: x = 0 loads one byte, here of glyph 5 (log entry 2). -/
theorem test_ldRegs :
    (runs 0xF065 (withRegsI 0x19#16 [(1, 0x77)])).getV 0 = 0xF0 ∧
    (runs 0xF065 (withRegsI 0x19#16 [(1, 0x77)])).getV 1 = 0x77 := by decide

/-- V79: wraps to the first byte of glyph 0. -/
theorem test_ldRegs_wraps :
    (runs 0xF165 { withRegsI 0xFFF#16 [] with mem := State.reset.mem.write 0xFFF 0x12#8 }).firstRegs 2 = [0x12, 0xF0] := by decide

/-- R75: `F155` with I = PC + 2 replaces the next opcode; `F033` with I one lower replaces its high byte alone. -/
theorem test_store_over_next :
    (runs 0xF155 (withRegsI 0x202#16 [(0, 0x6A), (1, 0x2F)])).fetch = 0x6A2F#16 ∧
    (runs 0xF033 (withRegsI 0x200#16 [(0, 0x9D)])).fetch = 0x0700#16 := by decide

/-! ## Display -/

/-- V88. -/
theorem test_cls :
    (runs 0x00E0 { withRegs [(0xF, 5)] with fb := (Framebuffer.blank.toggle 0 0).toggle 63 31 }).fb = Framebuffer.blank ∧
    (runs 0x00E0 (withRegs [(0xF, 5)])).getV 0xF = 5 := by decide

/-- The start of V60, V82 to V84: byte `b` at 0x300 and `I` there. -/
def sprite1 (b : Byte) (rs : List (RegIx × Byte)) : State :=
  { withRegsI 0x300#16 rs with mem := State.reset.mem.write 0x300 b }

/-- V60: the row wraps cell by cell, at the corner. -/
theorem test_drw :
    (runs 0xD121 (sprite1 0xC0 [(1, 63), (2, 31)])).fb = (Framebuffer.blank.toggle 63 31).toggle 0 31 ∧
    (runs 0xD121 (sprite1 0xC0 [(1, 63), (2, 31)])).getV 0xF = 0 := by decide

/-- V83, first row: one overlap is cleared and reported; V84: a set cell under a 0 bit is no collision. -/
theorem test_drw_collision :
    (runs 0xD121 { sprite1 0xF0 [(1, 4), (2, 4)] with fb := Framebuffer.blank.toggle 4 4 }).fb.get 4 4 = false ∧
    (runs 0xD121 { sprite1 0xF0 [(1, 4), (2, 4)] with fb := Framebuffer.blank.toggle 4 4 }).getV 0xF = 1 ∧
    (runs 0xD121 { sprite1 0x0F [(1, 4), (2, 4)] with fb := Framebuffer.blank.toggle 4 4 }).getV 0xF = 0 := by decide

/-! ## Keyboard and timers -/

/-- V89: 0x16 is no key. -/
theorem test_skp :
    (runs 0xE49E { withRegs [(4, 0x06)] with keys := 0x0044#16 }).pc = 0x0204#16 ∧
    (runs 0xE49E { withRegs [(4, 0x07)] with keys := 0x0044#16 }).pc = 0x0202#16 ∧
    (runs 0xE49E { withRegs [(4, 0x16)] with keys := 0x0044#16 }).pc = 0x0202#16 := by decide

/-- V90. -/
theorem test_sknp :
    (runs 0xE4A1 { withRegs [(4, 0x06)] with keys := 0x0044#16 }).pc = 0x0202#16 ∧
    (runs 0xE4A1 { withRegs [(4, 0x07)] with keys := 0x0044#16 }).pc = 0x0204#16 ∧
    (runs 0xE4A1 { withRegs [(4, 0x16)] with keys := 0x0044#16 }).pc = 0x0204#16 := by decide

/-- V91: a held key does not satisfy the wait. -/
theorem test_ldVxK :
    (runs 0xF30A { State.reset with keys := 0x0020#16 }).mode = .waitKey 3 ∧
    (runs 0xF30A { State.reset with keys := 0x0020#16 }).result = .waiting ∧
    (runs 0xF30A { State.reset with keys := 0x0020#16 }).pc = 0x0202#16 := by decide

/-- V98. -/
theorem test_ldVxDt :
    (runs 0xF507 { State.reset with dt := 0x3C#8 }).getV 5 = 0x3C ∧
    (runs 0xF507 { State.reset with dt := 0x3C#8 }).dt = 0x3C#8 := by decide

/-- V99. -/
theorem test_ldDtVx :
    (runs 0xF515 { withRegs [(5, 0x3C)] with st := 9#8 }).dt = 0x3C#8 ∧
    (runs 0xF515 { withRegs [(5, 0x3C)] with st := 9#8 }).st = 9#8 := by decide

/-- V100. -/
theorem test_ldStVx :
    (runs 0xF518 { withRegs [(5, 8)] with dt := 9#8 }).st = 8#8 ∧
    (runs 0xF518 { withRegs [(5, 8)] with dt := 9#8 }).dt = 9#8 := by decide

/-! ## The host's transactions -/

/-- A core waiting for a key for V3 (V91). -/
def waiting : State := { State.reset with mode := .waitKey 3#4 }

/-- A cancelled core (V95). -/
def cancelled : State := { State.reset with mode := .cancelled }

/-- S1. -/
theorem test_load :
    (sends (.load [0x12#8, 0x34#8, 0x56#8]) State.reset).mem.readBytes 0x200 4 = [0x12, 0x34, 0x56, 0x00] := by decide

/-- S1: 3585 bytes. -/
theorem test_load_refuses :
    doLoad (List.replicate 3585 1#8) State.reset = raise .capacityExceeded State.reset := if_pos (by rw [List.length_replicate]; decide)

/-- S7. -/
theorem test_keys :
    (sends (.keyUp (some 0xD#4)) (sends (.keyDown (some 0xD#4)) (sends (.keyDown (some 6#4)) (sends (.keyDown (some 2#4)) State.reset)))).keys = 0x0044#16 := by decide

/-- V92, V93: a TICK, a key-up and an unmapped key-down do not end the wait. -/
theorem test_wait_goes_on :
    (sends .tick waiting).result = .waiting ∧ (sends (.keyUp (some 4#4)) waiting).mode = .waitKey 3 ∧
    (sends (.keyDown none) waiting).mode = .waitKey 3 := by decide

/-- V94. -/
theorem test_wait_completes :
    (sends (.keyDown (some 0xB#4)) waiting).getV 3 = 0x0B ∧ (sends (.keyDown (some 0xB#4)) waiting).mode = .run ∧
    (sends (.keyDown (some 0xB#4)) waiting).keys = 0x0800#16 := by decide

/-- V95, V96, V97. -/
theorem test_cancel :
    (sends .cancel waiting).result = .fault .waitCancelled ∧ (sends .cancel waiting).mode = .cancelled ∧
    (sends .tick cancelled).result = .cancelled ∧ (sends .cancel cancelled).result = .ok ∧
    (sends .cancel State.reset).result = .ok := by decide

/-- V101. -/
theorem test_timerDec :
    (sends .timerDec { State.reset with dt := 2#8 }).dt = 1#8 ∧ (sends .timerDec { State.reset with dt := 2#8 }).st = 0#8 := by decide

/-- R196, R197: coordinates wrap; both timers. -/
theorem test_queries :
    (sends (.fbQuery 67 36) { State.reset with fb := Framebuffer.blank.toggle 3 4 }).result = .pixel true ∧
    (sends .timerPoll { State.reset with dt := 2#8, st := 3#8 }).result = .timers 2 3 := by decide

/-- R250: a cancelled core comes back, the program is erased. -/
theorem test_reset :
    (sends .reset { cancelled with pc := 5#16, mem := State.reset.mem.write 0x300 7#8 }).mode = .run ∧
    (sends .reset { cancelled with pc := 5#16, mem := State.reset.mem.write 0x300 7#8 }).mem = State.reset.mem := by decide

/-- R198: the least index; NONE. -/
theorem test_map :
    mapRawKey (Vector.replicate 16 5) 5 = some 0#4 ∧ mapRawKey (Vector.replicate 16 5) 6 = none ∧
    mapRawKey ((Vector.replicate 16 5).set 15 7) 7 = some 15#4 := by decide

/-- R72: the first queued transaction is the step. -/
theorem test_inbox_order :
    (stepOf { State.reset with inbox := [.keyDown (some 1#4), .tick] }).keys = 0x0002#16 ∧
    (stepOf { State.reset with inbox := [.keyDown (some 1#4), .tick] }).inbox = [.tick] := by decide

/-! ## Witnesses: for each obligation with hypotheses, states and operands that meet all of them, at the edges of each clause -/

theorem witness_DecodeOfEncodeIsIdentity :
    (Instr.drw 15#4 15#4 15).wellFormed = true ∧ (Instr.drw 0#4 0#4 0).wellFormed = true := by decide

theorem witness_EncodeOfDecodeIsIdentity :
    decode 0x8AB6#16 = .ok (.shr 0xA#4 0xB#4) ∧ decode 0xFF65#16 = .ok (.ldRegs 0xF#4) := by decide

theorem witness_DecodeAgreesWithDisjointMaskTable :
    (∃ r ∈ opcodeTable, r.matches 0x8AB6#16 = true) ∧ ∃ r ∈ opcodeTable, ∃ r' ∈ opcodeTable, r.matches 0xFF65#16 = true ∧
    r'.matches 0xFF65#16 = true := by decide

/-- One opcode of each clause. -/
theorem witness_UnassignedOpcodesAreThoseOfTheGroups :
    decode 0x00E1#16 = .error (.unassigned 0x00E1#16) ∧ decode 0x0FFF#16 = .error (.unassigned 0x0FFF#16) ∧
    decode 0x5001#16 = .error (.unassigned 0x5001#16) ∧ decode 0x800D#16 = .error (.unassigned 0x800D#16) ∧
    decode 0x800F#16 = .error (.unassigned 0x800F#16) ∧ decode 0x900F#16 = .error (.unassigned 0x900F#16) ∧
    decode 0xE09D#16 = .error (.unassigned 0xE09D#16) ∧ decode 0xF066#16 = .error (.unassigned 0xF066#16) := by decide

/-- A core about to run `op`, nothing queued. -/
def at200 (op : Nat) : State := State.reset.withFetchWord 16 op

theorem witness_StepRunsDecodedInstruction :
    (at200 0xFF65).mode = .run ∧ decode (at200 0xFF65).fetch = .ok (.ldRegs 0xF#4) ∧ (at200 0xFF65).inbox = [] ∧
    { at200 0x00E0 with inbox := [.keyDown none, .tick] }.inbox = .keyDown none :: [.tick] ∧
    { at200 0xFF65 with inbox := [.tick, .cancel] }.inbox = .tick :: [.cancel] := by decide

theorem witness_UnassignedOpcodeIsLoggedNop :
    { at200 0x5121 with inbox := [.reset] }.mode = .run ∧
    decode { at200 0x5121 with inbox := [.reset] }.fetch = .error (.unassigned { at200 0x5121 with inbox := [.reset] }.fetch) ∧
    (at200 0x5121).mode = .run ∧ decode (at200 0x5121).fetch = .error (.unassigned (at200 0x5121).fetch) := by decide

theorem witness_OnlyTheShiftsIgnoreAField :
    0xE#4 ≠ vf ∧ (∃ r ∈ opcodeTable, r.matches 0x84A6#16 = true) ∧ (∃ r ∈ opcodeTable, r.matches 0x00E0#16 = true) ∧
    0x000#12 ≠ 0xFFF#12 ∧ 0x0#4 ≠ 0xF#4 ∧ 0x00#8 ≠ 0xFF#8 ∧ 0 < 16 ∧ 15 < 16 ∧ 0 ≠ 15 := by decide

theorem witness_TickOutsideRunChangesNothing : waiting.mode = .waitKey 3#4 ∧ cancelled.mode = .cancelled := by decide

/-- One state for each of the seven cases. -/
theorem witness_TickReturnsTheListedResult :
    (∃ t, transact .tick cancelled = .next t) ∧ (∃ t, transact .tick waiting = .next t) ∧
    (∃ t, transact .tick (at200 0x5121) = .next t) ∧ (∃ t, transact .tick (at200 0xF30A) = .next t) ∧
    (∃ t, transact .tick (at200 0x00EE) = .next t) ∧ (∃ t, transact .tick { at200 0x2300 with sp := 16#8 } = .next t) ∧
    ∃ t, transact .tick (at200 0x2300) = .next t := ⟨⟨_, rfl⟩, ⟨_, rfl⟩, ⟨_, rfl⟩, ⟨_, rfl⟩, ⟨_, rfl⟩, ⟨_, rfl⟩, ⟨_, rfl⟩⟩

theorem witness_FaultingTickOnlyAdvancesPc :
    (∃ t, transact .tick (at200 0x00EE) = .next t ∧ t.result = .fault .stackUnderflow) ∧
    ∃ t, transact .tick { at200 0x2300 with sp := 16#8 } = .next t ∧ t.result = .fault .stackOverflow := ⟨⟨_, rfl, rfl⟩, ⟨_, rfl, rfl⟩⟩

theorem witness_ReturnPopsNewestAddress :
    (0 < (withStack 1#8 0#16).sp.toNat ∧ (withStack 1#8 0#16).sp.toNat ≤ 16) ∧ 0 < (withStack 16#8 0#16).sp.toNat ∧
    (withStack 16#8 0#16).sp.toNat ≤ 16 := by decide

theorem witness_StackFaultsChangeNothingButPc :
    (at200 0x00EE).mode = .run ∧ decode (at200 0x00EE).fetch = .ok .ret ∧ (at200 0x00EE).sp = 0#8 ∧
    { at200 0x2300 with sp := 16#8 }.mode = .run ∧ decode { at200 0x2300 with sp := 16#8 }.fetch = .ok (.call 0x300#12) ∧
    { at200 0x2300 with sp := 16#8 }.sp = 16#8 := by decide

theorem witness_CallPushesNextAddressAndJumps :
    (withStack 0#8 0#16).sp.toNat < 16 ∧ (withStack 15#8 0#16).sp.toNat < 16 := by decide

theorem witness_CallThenReturnRestoresPc : (withStack 15#8 0#16).sp.toNat < 16 := by decide

theorem witness_JumpToSelfChangesNothing :
    (at200 0x1200).inbox = [] ∧ (at200 0x1200).spinning := ⟨rfl, rfl, 0x200#12, by decide, rfl⟩

theorem witness_AddRegistersSetsCarry :
    (0xE#4 ≠ vf) ∧ 255 < ((withRegs [(0xE, 255), (2, 1)]).getV 0xE).toNat + ((withRegs [(0xE, 255), (2, 1)]).getV 2).toNat ∧
    ¬ 255 < ((withRegs [(0xE, 254), (2, 1)]).getV 0xE).toNat + ((withRegs [(0xE, 254), (2, 1)]).getV 2).toNat := by decide

theorem witness_SubtractSetsStrictNotBorrow :
    ∃ a b f : Nat, a = ((withRegs [(1, 7), (2, 7)]).getV 1).toNat ∧ b = ((withRegs [(1, 7), (2, 7)]).getV 2).toNat ∧
    f = (if b < a then 1 else 0) := ⟨7, 7, 0, by decide⟩

theorem witness_ReverseSubtractSetsStrictNotBorrow :
    ∃ a b f : Nat, a = ((withRegs [(1, 7), (2, 8)]).getV 1).toNat ∧ b = ((withRegs [(1, 7), (2, 8)]).getV 2).toNat ∧
    f = (if a < b then 1 else 0) := ⟨7, 8, 1, by decide⟩

theorem witness_ShiftRightMovesLowBitToFlag : 0xE#4 ≠ vf ∧ 0xF#4 = vf := by decide

theorem witness_ShiftLeftMovesHighBitToFlag : 0xE#4 ≠ vf ∧ 0xF#4 = vf := by decide

theorem witness_StoreRegistersWritesAscendingBytes : (0#4).toNat ≤ (0#4).toNat ∧ (15#4).toNat ≤ (15#4).toNat := by decide

theorem witness_LoadRegistersReadsAscendingBytes : (0#4).toNat ≤ (0#4).toNat ∧ (15#4).toNat ≤ (15#4).toNat := by decide

theorem witness_StoreThenLoadRestoresRegisters : (0#4).toNat ≤ (0#4).toNat ∧ (15#4).toNat ≤ (15#4).toNat := by decide

/-- The last byte of a store falls on PC + 1, the first byte on PC, a byte of a LOAD on PC + 1. -/
theorem witness_StoreOverNextInstructionIsFetched :
    (15#4).toNat ≤ (15#4).toNat ∧
    ((withRegsI 0x1F2#16 []).indexAddress + 15) % 4096 = ((withRegsI 0x1F2#16 []).pc.toNat + 1) % 4096 ∧
    ((withRegsI 0x1200#16 []).indexAddress + 0) % 4096 = (withRegsI 0x1200#16 []).pc.toNat % 4096 ∧
    (List.replicate 3584 1#8).length ≤ 3584 ∧ 1 < (List.replicate 3584 1#8).length ∧
    (0x200 + 1) % 4096 = (State.reset.pc.toNat + 1) % 4096 := by simp only [List.length_replicate]; decide

theorem witness_DrawTogglesCoveredCellsAndReportsCollision :
    0 < 16 ∧ 15 < 16 ∧
    ∃ covers : Nat → Nat → Bool, covers = spriteCovers State.reset.mem State.reset.indexAddress (State.reset.getV 1).toNat (State.reset.getV 2).toNat 15 := ⟨by decide, by decide, _, rfl⟩

theorem witness_DrawTwiceRestoresFramebuffer :
    15 < 16 ∧ 0xE#4 ≠ vf ∧ 0#4 ≠ vf ∧ ∀ cx < 64, ∀ cy < 32, State.reset.fb.get cx cy = false := by decide

/-- Down: the value 15; not down: the value 16. -/
theorem witness_KeySkipsTestTheLatch :
    (∃ k : Key, (0x8044#16).getLsbD k.toNat = true ∧ (0x0F#8).toNat = k.toNat) ∧
    ¬ ∃ k : Key, (0x8044#16).getLsbD k.toNat = true ∧ (0x10#8).toNat = k.toNat := by decide

theorem witness_KeyDownLatchesAndCompletesWait :
    waiting.mode = .waitKey 3#4 ∧ ∀ x, State.reset.mode ≠ .waitKey x := by decide

theorem witness_CancelEndsOnlyAPendingWait :
    waiting.mode = .waitKey 3#4 ∧ (∀ x, State.reset.mode ≠ .waitKey x) ∧ ∀ x, cancelled.mode ≠ .waitKey x := by decide

theorem witness_LoadCopiesImageOrRefusesIt :
    (List.replicate 3584 1#8).length ≤ 3584 ∧ 3584 < (List.replicate 3585 1#8).length ∧
    3583 < (List.replicate 3584 1#8).length := by simp only [List.length_replicate]; decide

theorem witness_RawKeyMapsToLeastIndex :
    mapRawKey (Vector.replicate 16 5) 5 = some 0#4 ∧ mapRawKey (Vector.replicate 16 5) 6 = none := by decide

theorem witness_ResetRestoresEveryPiece :
    (15 < 16 ∧ 4 < 5) ∧ (0x050 ≤ 0x050 ∧ 0x050 < 4096) ∧ 0x050 ≤ 4095 ∧ 4095 < 4096 := by decide

theorem witness_ResetThenLoadBootsTheImage :
    (List.replicate 3582 1#8).length ≤ 3582 ∧ ([] : List Byte).length ≤ 3582 := by simp only [List.length_replicate]; decide

theorem witness_ResetStateHoldsTheStatedValues : (0x050 ≤ 0x050 ∧ 0x050 < 4096) ∧ 0x050 ≤ 4095 ∧ 4095 < 4096 := by decide

theorem witness_OnlyListedWritersWrite :
    (∃ t, exec (.ldRegs 3#4) State.reset = .next t) ∧ instrWrites (.ldRegs 3#4) (.v 4#4) = false ∧
    (∃ t, transact .tick (at200 0xF365) = .next t) ∧ Part.v 4#4 ≠ .pc ∧ Part.v 4#4 ≠ .log ∧ (at200 0xF365).mode = .run ∧
    decode (at200 0xF365).fetch = .ok (.ldRegs 3#4) ∧ (∃ t, transact (.load []) State.reset = .next t) ∧
    hostWrites (.load []) State.reset (.mem 0x1FF#12) = false ∧ Transaction.load [] ≠ .tick ∧ Transaction.load [] ≠ .reset := ⟨⟨_, rfl⟩, by decide, ⟨_, rfl⟩, by decide, by decide, by decide, by decide, ⟨_, rfl⟩, by decide, by decide, by decide⟩

theorem witness_ModeChangesByListedTransitionsOnly :
    (∃ t, step (at200 0x6A2F) = .next t) ∧ (∃ t, step (at200 0xF30A) = .next t ∧ t.mode = .waitKey 3#4) ∧
    (∃ t, step { waiting with inbox := [.keyDown (some 1#4)] } = .next t ∧ t.mode = .run) ∧
    (∃ t, step { waiting with inbox := [.cancel] } = .next t ∧ t.mode = .cancelled) ∧
    ∃ t, step { cancelled with inbox := [.reset] } = .next t ∧ t.mode = .run := ⟨⟨_, rfl⟩, ⟨_, rfl, rfl⟩, ⟨_, rfl, rfl⟩, ⟨_, rfl, rfl⟩, ⟨_, rfl, rfl⟩⟩

theorem witness_StopsOnlyWithStackPointerOutOfRange :
    (withStack 16#8 0#16).sp.toNat ≤ 16 ∧ 16 < (withStack 17#8 0#16).sp.toNat ∧ 16 < (withStack 255#8 0#16).sp.toNat := by decide

theorem witness_EveryStepKeepsTheInvariant :
    (at200 0xFF55).Inv ∧ ∃ t, step (at200 0xFF55) = .next t := ⟨⟨by decide, by decide⟩, _, rfl⟩

theorem witness_NoRunFromTheInvariantStops : (at200 0xFF55).Inv := ⟨by decide, by decide⟩

end Sys2Proof.Machine
end

section
/-! PROOFS. O15 (spec/30_encoding.md R98): the shifts ignore `y`, every bit of a pattern is fixed or belongs to an operand,
and every other field of every instruction changes some result. -/

namespace Sys2Proof

/-! ## An opcode with a row's fixed bits is that row's pattern, filled with the opcode's own fields (R92) -/

section mask

variable {op : Word}

theorem fieldTop_of_mask {t : BitVec 4} (h : op &&& 0xF000#16 = t ++ 0x000#12) : fieldTop op = t := by
  have hop : fieldTop op ++ 0x000#12 = t ++ 0x000#12 := by
    rw [← h, ← Laws.TableRow.mask_nnn _ (fieldNNN op), top_append_nnn]
  simpa only [(fields_of_nnn _ _).1] using congrArg fieldTop hop

/-- Format `NNN`. -/
theorem nnn_of_mask (t : BitVec 4) (h : op &&& 0xF000#16 = t ++ 0x000#12) : t ++ fieldNNN op = op := by
  rw [← fieldTop_of_mask h, top_append_nnn]

/-- Format `XKK`. -/
theorem xkk_of_mask (t : BitVec 4) (h : op &&& 0xF000#16 = t ++ 0x000#12) : t ++ fieldX op ++ fieldKK op = op := by
  rw [← fieldTop_of_mask h, top_append_x_kk]

/-- Format `XYN`. -/
theorem xyn_of_mask (t : BitVec 4) (h : op &&& 0xF000#16 = t ++ 0x000#12) :
    t ++ fieldX op ++ fieldY op ++ fieldN op = op := by
  rw [← fieldTop_of_mask h, top_append_x_y_n]

/-- Format `XY`: the last digit is fixed too. -/
theorem xy_of_mask (t f : BitVec 4) (h : op &&& 0xF00F#16 = t ++ 0x0#4 ++ 0x0#4 ++ f) :
    t ++ fieldX op ++ fieldY op ++ f = op := by
  rw [← top_append_x_y_n op, Laws.TableRow.mask_xy] at h
  have htop := congrArg fieldTop h
  have hlow := congrArg fieldN h
  simp only [fields_of_x_y_n] at htop hlow
  rw [← htop, ← hlow, top_append_x_y_n]

/-- Format `X`: the low byte is fixed too. -/
theorem x_of_mask (t : BitVec 4) (ff : Byte) (h : op &&& 0xF0FF#16 = t ++ 0x0#4 ++ ff) : t ++ fieldX op ++ ff = op := by
  rw [← top_append_x_kk op, Laws.TableRow.mask_x] at h
  have htop := congrArg fieldTop h
  have hlow := congrArg fieldKK h
  simp only [fields_of_x_kk] at htop hlow
  rw [← htop, ← hlow, top_append_x_kk]

/-- Both patterns of group 0 fix all 16 bits. -/
theorem fixed_of_mask (p : Word) (h : op &&& 0xFFFF#16 = p) : p = op := by
  rw [← h]
  exact BitVec.and_allOnes

end mask

/-- Every opcode that has the row's fixed bits encodes a well-formed instruction of the row. -/
def OpcodeRow.Encodes (r : OpcodeRow) : Prop :=
  ∀ op : Word, r.matches op = true → ∃ i : Instr, i.wellFormed = true ∧ i.mnemonic = r.mnemonic ∧ encode i = op

/-- `f op` is the row's instruction with the operand fields of `op`. -/
theorem OpcodeRow.encodes_of {r : OpcodeRow} (f : Word → Instr) (hwf : ∀ op, (f op).wellFormed = true)
    (hm : ∀ op, (f op).mnemonic = r.mnemonic) (he : ∀ op, op &&& r.mask = r.pattern → encode (f op) = op) :
    r.Encodes := fun op h => ⟨f op, hwf op, hm op, he op (by simpa [OpcodeRow.matches] using h)⟩

open OpcodeRow (encodes_of)

theorem rowsLow_encode : ∀ r ∈ opcodeRowsLow, r.Encodes := by
  simp only [opcodeRowsLow, List.forall_mem_cons]
  exact ⟨
    encodes_of (fun _ => .cls) (fun _ => rfl) (fun _ => rfl) fun _ => fixed_of_mask 0x00E0#16,
    encodes_of (fun _ => .ret) (fun _ => rfl) (fun _ => rfl) fun _ => fixed_of_mask 0x00EE#16,
    encodes_of (fun op => .jp (fieldNNN op)) (fun _ => rfl) (fun _ => rfl) fun _ => nnn_of_mask 0x1#4,
    encodes_of (fun op => .call (fieldNNN op)) (fun _ => rfl) (fun _ => rfl) fun _ => nnn_of_mask 0x2#4,
    encodes_of (fun op => .seImm (fieldX op) (fieldKK op)) (fun _ => rfl) (fun _ => rfl) fun _ => xkk_of_mask 0x3#4,
    encodes_of (fun op => .sneImm (fieldX op) (fieldKK op)) (fun _ => rfl) (fun _ => rfl) fun _ => xkk_of_mask 0x4#4,
    encodes_of (fun op => .seReg (fieldX op) (fieldY op)) (fun _ => rfl) (fun _ => rfl) fun _ => xy_of_mask 0x5#4 0x0#4,
    encodes_of (fun op => .ldImm (fieldX op) (fieldKK op)) (fun _ => rfl) (fun _ => rfl) fun _ => xkk_of_mask 0x6#4,
    encodes_of (fun op => .addImm (fieldX op) (fieldKK op)) (fun _ => rfl) (fun _ => rfl) fun _ => xkk_of_mask 0x7#4,
    encodes_of (fun op => .sneReg (fieldX op) (fieldY op)) (fun _ => rfl) (fun _ => rfl) fun _ => xy_of_mask 0x9#4 0x0#4,
    List.forall_mem_nil _⟩

/-- Group 8: a row per operation, told by the last digit `f`. -/
theorem arithRow_encodes (mk : RegIx → RegIx → Instr) (f : BitVec 4) (name : String)
    (hwf : ∀ x y, (mk x y).wellFormed = true) (hm : ∀ x y, (mk x y).mnemonic = name)
    (he : ∀ x y, encode (mk x y) = 0x8#4 ++ x ++ y ++ f) :
    OpcodeRow.Encodes ⟨name, 0xF00F#16, 0x8#4 ++ 0x0#4 ++ 0x0#4 ++ f⟩ :=
  encodes_of (fun op => mk (fieldX op) (fieldY op)) (fun _ => hwf _ _) (fun _ => hm _ _)
    fun _ h => (he _ _).trans (xy_of_mask 0x8#4 f h)

theorem rowsArith_encode : ∀ r ∈ opcodeRowsArith, r.Encodes := by
  simp only [opcodeRowsArith, List.forall_mem_cons]
  exact ⟨
    arithRow_encodes .ldReg 0x0#4 _ (fun _ _ => rfl) (fun _ _ => rfl) fun _ _ => rfl,
    arithRow_encodes .orReg 0x1#4 _ (fun _ _ => rfl) (fun _ _ => rfl) fun _ _ => rfl,
    arithRow_encodes .andReg 0x2#4 _ (fun _ _ => rfl) (fun _ _ => rfl) fun _ _ => rfl,
    arithRow_encodes .xorReg 0x3#4 _ (fun _ _ => rfl) (fun _ _ => rfl) fun _ _ => rfl,
    arithRow_encodes .addReg 0x4#4 _ (fun _ _ => rfl) (fun _ _ => rfl) fun _ _ => rfl,
    arithRow_encodes .sub 0x5#4 _ (fun _ _ => rfl) (fun _ _ => rfl) fun _ _ => rfl,
    arithRow_encodes .shr 0x6#4 _ (fun _ _ => rfl) (fun _ _ => rfl) fun _ _ => rfl,
    arithRow_encodes .subn 0x7#4 _ (fun _ _ => rfl) (fun _ _ => rfl) fun _ _ => rfl,
    arithRow_encodes .shl 0xE#4 _ (fun _ _ => rfl) (fun _ _ => rfl) fun _ _ => rfl,
    List.forall_mem_nil _⟩

/-- Groups E and F: a row per operation, told by the first digit `t` and the low byte `ff`. -/
theorem oneRegRow_encodes (mk : RegIx → Instr) (t : BitVec 4) (ff : Byte) (name : String)
    (hwf : ∀ x, (mk x).wellFormed = true) (hm : ∀ x, (mk x).mnemonic = name)
    (he : ∀ x, encode (mk x) = t ++ x ++ ff) : OpcodeRow.Encodes ⟨name, 0xF0FF#16, t ++ 0x0#4 ++ ff⟩ :=
  encodes_of (fun op => mk (fieldX op)) (fun _ => hwf _) (fun _ => hm _) fun _ h => (he _).trans (x_of_mask t ff h)

theorem drwRow_encodes : OpcodeRow.Encodes ⟨"DRW", 0xF000, 0xD000⟩ := by
  refine encodes_of (fun op => .drw (fieldX op) (fieldY op) (fieldN op).toNat)
    (fun op => decide_eq_true (fieldN op).isLt) (fun _ => rfl) fun op h => ?_
  rw [encode, BitVec.ofNat_toNat, BitVec.setWidth_eq]
  exact xyn_of_mask 0xD#4 h

theorem rowsHigh_encode : ∀ r ∈ opcodeRowsHigh, r.Encodes := by
  simp only [opcodeRowsHigh, List.forall_mem_cons]
  exact ⟨
    encodes_of (fun op => .ldI (fieldNNN op)) (fun _ => rfl) (fun _ => rfl) fun _ => nnn_of_mask 0xA#4,
    encodes_of (fun op => .jpV0 (fieldNNN op)) (fun _ => rfl) (fun _ => rfl) fun _ => nnn_of_mask 0xB#4,
    encodes_of (fun op => .rnd (fieldX op) (fieldKK op)) (fun _ => rfl) (fun _ => rfl) fun _ => xkk_of_mask 0xC#4,
    drwRow_encodes,
    oneRegRow_encodes .skp 0xE#4 0x9E#8 _ (fun _ => rfl) (fun _ => rfl) fun _ => rfl,
    oneRegRow_encodes .sknp 0xE#4 0xA1#8 _ (fun _ => rfl) (fun _ => rfl) fun _ => rfl,
    oneRegRow_encodes .ldVxDt 0xF#4 0x07#8 _ (fun _ => rfl) (fun _ => rfl) fun _ => rfl,
    oneRegRow_encodes .ldVxK 0xF#4 0x0A#8 _ (fun _ => rfl) (fun _ => rfl) fun _ => rfl,
    oneRegRow_encodes .ldDtVx 0xF#4 0x15#8 _ (fun _ => rfl) (fun _ => rfl) fun _ => rfl,
    oneRegRow_encodes .ldStVx 0xF#4 0x18#8 _ (fun _ => rfl) (fun _ => rfl) fun _ => rfl,
    oneRegRow_encodes .addIVx 0xF#4 0x1E#8 _ (fun _ => rfl) (fun _ => rfl) fun _ => rfl,
    oneRegRow_encodes .ldFVx 0xF#4 0x29#8 _ (fun _ => rfl) (fun _ => rfl) fun _ => rfl,
    oneRegRow_encodes .ldBVx 0xF#4 0x33#8 _ (fun _ => rfl) (fun _ => rfl) fun _ => rfl,
    oneRegRow_encodes .stRegs 0xF#4 0x55#8 _ (fun _ => rfl) (fun _ => rfl) fun _ => rfl,
    oneRegRow_encodes .ldRegs 0xF#4 0x65#8 _ (fun _ => rfl) (fun _ => rfl) fun _ => rfl,
    List.forall_mem_nil _⟩

/-- No bit of any of the 34 patterns is idle (R92, R93). -/
theorem opcodeTable_encodes : ∀ r ∈ opcodeTable, r.Encodes := by
  simp only [opcodeTable, List.forall_mem_append]
  exact ⟨⟨rowsLow_encode, rowsArith_encode⟩, rowsHigh_encode⟩

end Sys2Proof

namespace Sys2Proof.Machine

/-! ## What a sprite leaves in a cell (R161) -/

/-- Cell columns and sprite columns: the cell in column `cx` is the sprite's column `c`, counted with wrap, exactly when it
lies `c` columns right of the place. -/
theorem spriteColumn_iff (x0 cx c : Nat) (hc : c < 8) :
    cx % 64 = (x0 + c) % 64 ↔ (cx + 64 - x0 % 64) % 64 = c := by omega

/-- A cell of the sprite row is toggled when its bit is 1; every other cell is as before. -/
theorem get_drawRow (x0 y : Nat) (b : Byte) (d : Framebuffer × Bool) (cx cy : Nat) :
    (drawRow x0 y b d).1.get cx cy =
      (d.1.get cx cy ^^ (decide (cy % 32 = y % 32) && decide ((cx + 64 - x0 % 64) % 64 < 8) &&
        b.getLsbD (7 - (cx + 64 - x0 % 64) % 64))) := by
  have hfold : ∀ n ≤ 8, ((List.range n).foldl (fun d c => drawBit (x0 + c) y (b.getLsbD (7 - c)) d) d).1.get cx cy =
      (d.1.get cx cy ^^ (decide (cy % 32 = y % 32) && decide ((cx + 64 - x0 % 64) % 64 < n) &&
        b.getLsbD (7 - (cx + 64 - x0 % 64) % 64))) := by
    intro n hn
    induction n with
    | zero => simp
    | succ c ih =>
      rw [List.range_succ, List.foldl_append, List.foldl_cons, List.foldl_nil, (drawBit_spec _ _ _ _ _ _).1,
        ih (by omega)]
      simp only [spriteColumn_iff x0 cx c (by omega)]
      generalize (cx + 64 - x0 % 64) % 64 = col
      rcases Nat.lt_trichotomy col c with h | rfl | h
      · simp [h, Nat.lt_succ_of_lt h, h.ne]
      · simp [Bool.and_comm]
      · simp [h.ne', Nat.not_lt.2 h.le, Nat.not_lt.2 (Nat.succ_le_of_lt h)]
  exact hfold 8 le_rfl

/-- One row more: the sprite's first row, and the rows below it as a sprite of their own. -/
theorem spriteCovers_succ (m : Memory) (a x0 y n cx cy : Nat) (hn : n < 32) :
    spriteCovers m a x0 y (n + 1) cx cy =
      ((decide (cy % 32 = y % 32) && decide ((cx + 64 - x0 % 64) % 64 < 8) &&
        (m.read a).getLsbD (7 - (cx + 64 - x0 % 64) % 64)) ^^ spriteCovers m (a + 1) x0 (y + 1) n cx cy) := by
  simp only [spriteCovers]
  by_cases hcy : cy % 32 = y % 32
  · have hfirst : (cy + 32 - y % 32) % 32 = 0 := by omega
    have hlast : ¬ (cy + 32 - (y + 1) % 32) % 32 < n := by omega
    simp [hcy, hfirst, hlast]
  · have hrow : (cy + 32 - y % 32) % 32 = (cy + 32 - (y + 1) % 32) % 32 + 1 := by omega
    simp [hcy, hrow, Nat.add_assoc, Nat.add_comm 1]

/-- Drawing toggles the covered cells and leaves the others (up to 32 rows, so that no row comes round again). -/
theorem get_drawRows (m : Memory) (x0 n cx cy : Nat) (hn : n ≤ 32) (a y : Nat) (d : Framebuffer × Bool) :
    (drawRows x0 y (m.readBytes a n) d).1.get cx cy = (d.1.get cx cy ^^ spriteCovers m a x0 y n cx cy) := by
  induction n generalizing a y d with
  | zero => simp [Memory.readBytes, drawRows, spriteCovers]
  | succ n ih =>
    rw [Memory.readBytes, drawRows, ih (by omega), get_drawRow, spriteCovers_succ _ _ _ _ _ _ _ (by omega), Bool.xor_assoc]

/-! ## The states that tell fields apart -/

/-- A glyph table with every bit set. -/
def solidFont : GlyphTable := Vector.replicate 16 (Vector.replicate 5 0xFF#8)

/-- The state after reset over `solidFont`: I and every register are 0, and the 80 bytes from address 0 up are 0xFF. -/
def solid : State := State.resetWith solidFont

theorem read_solid {a : Nat} (h : a < 80) : solid.mem.read a = 0xFF#8 := by
  rw [solid, State.resetWith, Memory.read_reset, Nat.mod_eq_of_lt (by omega), resetByte, dif_pos h]
  simp [solidFont]

@[simp] theorem getV_solid (k : RegIx) : solid.getV k = 0#8 := by simp [solid, State.resetWith, State.getV]

/-- `V[x]` is 0x85 and `V[x']` is 3, every other register 0, and key 3 is down. The two bytes are such that every operation
of group 8 leaves different values in `V[x]` for the operands `x, x'`, for `x, x` and for `x', x'`, even when one of the
registers is VF and the flag, written first, changes an operand (R142). -/
def probe (x x' : RegIx) : State := (({ solid with keys := 8#16 } : State).setV x 0x85#8).setV x' 3#8

section probe

variable {x x' : RegIx}

@[simp] theorem getV_probe_left (h : x ≠ x') : (probe x x').getV x = 0x85#8 := by
  rw [probe, State.getV_setV_of_ne _ _ h, State.getV_setV_self]

@[simp] theorem getV_probe_right : (probe x x').getV x' = 3#8 := State.getV_setV_self _ _ _

@[simp] theorem probe_dt : (probe x x').dt = 0#8 := rfl

@[simp] theorem probe_i : (probe x x').i = 0#16 := rfl

@[simp] theorem probe_mem : (probe x x').mem = solid.mem := rfl

@[simp] theorem probe_indexAddress : (probe x x').indexAddress = 0 := rfl

@[simp] theorem keyHeld_probe (v : Byte) : (probe x x').keyHeld v = (8#16).getLsbD v.toNat := rfl

end probe

/-! ## Told apart by a register, by PC, or by a cell of a sprite -/

section toldApart

variable {i j : Instr} {s t u : State}

theorem toldApart_of_getV (k : RegIx) (ht : exec i s = .next t) (hu : exec j s = .next u) (h : u.getV k ≠ t.getV k) :
    toldApart i j := ⟨s, t, u, ht, hu, .v k, h⟩

theorem toldApart_of_pc (ht : exec i s = .next t) (hu : exec j s = .next u) (h : u.pc ≠ t.pc) :
    toldApart i j := ⟨s, t, u, ht, hu, .pc, h⟩

/-- Two draws differ in a cell that one of the sprites covers and the other does not. -/
theorem toldApart_drw_of_covers (s : State) {x y x' y' : RegIx} {n n' : Nat} (cx : BitVec 6) (cy : BitVec 5)
    (hn : n ≤ 32) (hn' : n' ≤ 32)
    (h : spriteCovers s.mem s.indexAddress (s.getV x').toNat (s.getV y').toNat n' cx.toNat cy.toNat ≠
      spriteCovers s.mem s.indexAddress (s.getV x).toNat (s.getV y).toNat n cx.toNat cy.toNat) :
    toldApart (.drw x y n) (.drw x' y' n') := by
  refine ⟨s, _, _, rfl, rfl, .fb cx cy, fun e => h ?_⟩
  simpa only [Part.same, State.returns_fb, State.setFlag_fb, drawSprite, get_drawRows _ _ _ _ _ hn,
    get_drawRows _ _ _ _ _ hn', Bool.xor_right_inj] using e

end toldApart

/-! ## The field `nnn` -/

theorem immWord_injective : Function.Injective immWord := fun a a' h => by
  simpa [immWord] using congrArg (BitVec.setWidth 12) h

theorem nnn_told_apart (a a' : Imm12) (h : a ≠ a') :
    toldApart (.jp a) (.jp a') ∧ toldApart (.call a) (.call a') ∧ toldApart (.ldI a) (.ldI a') ∧
    toldApart (.jpV0 a) (.jpV0 a') := by
  have hw : immWord a' ≠ immWord a := immWord_injective.ne h.symm
  exact ⟨toldApart_of_pc (s := solid) rfl rfl hw, toldApart_of_pc (s := solid) rfl rfl hw,
    ⟨solid, _, _, rfl, rfl, .i, hw⟩,
    toldApart_of_pc (s := solid) rfl rfl (by simpa [State.offsetTarget] using hw)⟩

/-! ## The fields `kk` and `n` -/

/-- The register holds the first of the two immediates. -/
theorem kk_told_apart (kk kk' : Byte) (h : kk ≠ kk') (x : RegIx) :
    toldApart (.seImm x kk) (.seImm x kk') ∧ toldApart (.sneImm x kk) (.sneImm x kk') ∧
    toldApart (.ldImm x kk) (.ldImm x kk') ∧ toldApart (.addImm x kk) (.addImm x kk') :=
  ⟨toldApart_of_pc (s := solid.setV x kk) rfl rfl (by simp [h]),
   toldApart_of_pc (s := solid.setV x kk) rfl rfl (by simp [h]),
   toldApart_of_getV (s := solid.setV x kk) x rfl rfl (by simp [h.symm]),
   toldApart_of_getV (s := solid.setV x kk) x rfl rfl (by simp [h.symm])⟩

/-- The longer sprite covers the row below the shorter one. -/
theorem n_told_apart_of_lt {n n' : Nat} (hn' : n' < 16) (h : n < n') (x y : RegIx) :
    toldApart (.drw x y n) (.drw x y n') := by
  have hrow : n % 32 = n := Nat.mod_eq_of_lt (by omega)
  have hbyte : solid.mem.read n = 0xFF#8 := read_solid (by omega)
  refine toldApart_drw_of_covers solid 0#6 (BitVec.ofNat 5 n) (by omega) (by omega) ?_
  rw [show solid.indexAddress = 0 from rfl]
  simp [spriteCovers, hrow, hbyte, h]

theorem n_told_apart {n n' : Nat} (hn : n < 16) (hn' : n' < 16) (h : n ≠ n') (x y : RegIx) :
    toldApart (.drw x y n) (.drw x y n') := by
  rcases Nat.lt_or_gt_of_ne h with hlt | hlt
  · exact n_told_apart_of_lt hn' hlt x y
  · exact (n_told_apart_of_lt hn hlt x y).symm

/-! ## Operations that write the flag before they read (R142) -/

/-- VF is written first; the operands of the result are read on the state that leaves (R142, D5). -/
def flagThen (flag f : Byte → Byte → Byte) (x y : RegIx) (s : State) : State :=
  let s₁ := s.setFlag (flag (s.getV x) (s.getV y))
  s₁.setV x (f (s₁.getV x) (s₁.getV y))

theorem getV_flagThen (flag f : Byte → Byte → Byte) (x y k : RegIx) (s : State) :
    (flagThen flag f x y s).getV k =
      if k = x then f (if x = vf then flag (s.getV x) (s.getV y) else s.getV x)
        (if y = vf then flag (s.getV x) (s.getV y) else s.getV y)
      else if k = vf then flag (s.getV x) (s.getV y) else s.getV k := by
  simp only [flagThen, State.getV_setV, State.getV_setFlag]

theorem exec_sub (x y : RegIx) (s : State) : exec (.sub x y) s = finish (flagThen notBorrowFlag (· - ·) x y s) := rfl

theorem exec_subn (x y : RegIx) (s : State) :
    exec (.subn x y) s = finish (flagThen (fun a b => notBorrowFlag b a) (fun a b => b - a) x y s) := rfl

theorem exec_shr (x y : RegIx) (s : State) :
    exec (.shr x y) s = finish (flagThen (fun a _ => lowBitFlag a) (fun a _ => a >>> 1) x y s) := rfl

theorem exec_shl (x y : RegIx) (s : State) :
    exec (.shl x y) s = finish (flagThen (fun a _ => highBitFlag a) (fun a _ => a <<< 1) x y s) := rfl

/-! ## The shifts ignore `y` (R98, R138, R140) -/

theorem shr_ignores_y (s : State) (x y y' : RegIx) :
    ∃ t, exec (.shr x y) s = .next t ∧ exec (.shr x y') s = .next t ∧
      (x ≠ vf → (t.getV x).toNat = (s.getV x).toNat / 2) :=
  ⟨_, exec_shr x y s, rfl, fun hx => by
    simp [getV_flagThen, hx, BitVec.toNat_ushiftRight, Nat.shiftRight_eq_div_pow]⟩

theorem shl_ignores_y (s : State) (x y y' : RegIx) :
    ∃ t, exec (.shl x y) s = .next t ∧ exec (.shl x y') s = .next t ∧
      (x ≠ vf → (t.getV x).toNat = 2 * (s.getV x).toNat % 256) :=
  ⟨_, exec_shl x y s, rfl, fun hx => by
    simp [getV_flagThen, hx, BitVec.toNat_shiftLeft, Nat.shiftLeft_eq, Nat.mul_comm]⟩

/-! ## The mask of `Cxkk` (R143) -/

theorem exec_rnd (x : RegIx) (kk : Byte) (s : State) :
    exec (.rnd x kk) s = finish ({ s with rngPos := s.rngPos + 1 }.setV x (s.randomByte &&& kk)) := rfl

theorem exec_rnd_eq_iff (s : State) (x : RegIx) (kk kk' : Byte) :
    exec (.rnd x kk) s = exec (.rnd x kk') s ↔
      Config.rngStream s.rngPos &&& kk = Config.rngStream s.rngPos &&& kk' := by
  constructor
  · intro h
    simp only [exec_rnd, finish_eq, Host.Outcome.next.injEq] at h
    simpa only [State.getV_returns, State.getV_setV_self, State.randomByte] using congrArg (State.getV · x) h
  · intro h
    rw [exec_rnd, exec_rnd, State.randomByte, h]

/-! ## Runs of registers (R154) -/

theorem regCount_le (x : RegIx) : regCount x ≤ 16 := x.isLt

@[simp] theorem length_firstRegs (s : State) (n : Nat) (h : n ≤ 16) : (s.firstRegs n).length = n := by
  simpa [State.firstRegs] using h

theorem getElem_firstRegs (s : State) (n k : Nat) (h : k < (s.firstRegs n).length) :
    (s.firstRegs n)[k] = s.getV (BitVec.ofNat 4 k) := by
  have hk : k < 16 := by simp [State.firstRegs] at h; omega
  simp [State.firstRegs, State.getV, Nat.mod_eq_of_lt hk]

/-- Where a run of registers was stored, memory holds the registers. -/
theorem read_writeBytes_firstRegs (m : Memory) (s : State) (a n k : Nat) (hn : n ≤ 16) (hk : k < n) :
    (m.writeBytes a (s.firstRegs n)).read (a + k) = s.getV (BitVec.ofNat 4 k) := by
  have hlen := length_firstRegs s n hn
  rw [Memory.read_writeBytes_inside _ _ _ _ (by omega) (by omega), getElem_firstRegs]

/-! ## The register fields -/

section registers

variable {x x' : RegIx} (hne : x ≠ x')

include hne

/-- At most one of two registers is VF. -/
theorem vf_cases : x = vf ∧ x' ≠ vf ∨ x ≠ vf ∧ x' = vf ∨ x ≠ vf ∧ x' ≠ vf := by
  by_cases hx : x = vf
  · exact .inl ⟨hx, fun h => hne (hx.trans h.symm)⟩
  · by_cases hx' : x' = vf
    · exact .inr (.inl ⟨hx, hx'⟩)
    · exact .inr (.inr ⟨hx, hx'⟩)

/-- The skips on an immediate. -/
theorem immSkip_x_told_apart :
    toldApart (.seImm x 0x85#8) (.seImm x' 0x85#8) ∧ toldApart (.sneImm x 0x85#8) (.sneImm x' 0x85#8) :=
  ⟨toldApart_of_pc (s := probe x x') rfl rfl (by simp [hne]), toldApart_of_pc (s := probe x x') rfl rfl (by simp [hne])⟩

/-- The instructions that write the register they name. -/
theorem write_x_told_apart :
    toldApart (.ldImm x 0#8) (.ldImm x' 0#8) ∧ toldApart (.addImm x 1#8) (.addImm x' 1#8) ∧
    toldApart (.rnd x 0#8) (.rnd x' 0#8) ∧ toldApart (.ldVxDt x) (.ldVxDt x') :=
  ⟨toldApart_of_getV (s := probe x x') x rfl rfl (by simp [hne, State.getV_setV]),
   toldApart_of_getV (s := probe x x') x rfl rfl (by simp [hne, State.getV_setV]),
   toldApart_of_getV (s := probe x x') x rfl rfl (by
     rw [State.getV_returns, State.getV_returns, State.getV_setV_of_ne _ _ hne, State.getV_setV_self, BitVec.and_zero]
     exact (getV_probe_left hne).trans_ne (by decide)),
   toldApart_of_getV (s := probe x x') x rfl rfl (by simp [hne, State.getV_setV])⟩

/-- The skips on two registers. -/
theorem regSkip_told_apart :
    (toldApart (.seReg x x') (.seReg x' x') ∧ toldApart (.sneReg x x') (.sneReg x' x')) ∧
    toldApart (.seReg x x) (.seReg x x') ∧ toldApart (.sneReg x x) (.sneReg x x') :=
  ⟨⟨toldApart_of_pc (s := probe x x') rfl rfl (by simp [hne]), toldApart_of_pc (s := probe x x') rfl rfl (by simp [hne])⟩,
   toldApart_of_pc (s := probe x x') rfl rfl (by simp [hne]), toldApart_of_pc (s := probe x x') rfl rfl (by simp [hne])⟩

/-- The operations of group 8 without a flag. -/
theorem assign_told_apart {mk : RegIx → RegIx → Instr} (f : Byte → Byte → Byte)
    (hexec : ∀ x y s, exec (mk x y) s = finish (s.setV x (f (s.getV x) (s.getV y))))
    (hx : 0x85#8 ≠ f 0x85#8 3#8) (hy : f 0x85#8 3#8 ≠ f 0x85#8 0x85#8) :
    toldApart (mk x x') (mk x' x') ∧ toldApart (mk x x) (mk x x') :=
  ⟨toldApart_of_getV (s := probe x x') x (hexec _ _ _) (hexec _ _ _) (by simpa [hne, State.getV_setV] using hx),
   toldApart_of_getV (s := probe x x') x (hexec _ _ _) (hexec _ _ _) (by simpa [hne, State.getV_setV] using hy)⟩

/-- The sum, written after the carry, is read from the old operands (R136). -/
theorem addReg_told_apart : toldApart (.addReg x x') (.addReg x' x') ∧ toldApart (.addReg x x) (.addReg x x') := by
  constructor
  · refine toldApart_of_getV (s := probe x x') x rfl rfl ?_
    rw [State.getV_returns, State.getV_returns, State.getV_setV_self, State.getV_setV_of_ne _ _ hne, State.getV_setFlag,
      getV_probe_left hne, getV_probe_right]
    split <;> decide
  · exact toldApart_of_getV (s := probe x x') x rfl rfl (by simp [hne])

section flagged

variable {mk : RegIx → RegIx → Instr} {flag f : Byte → Byte → Byte}
  (hexec : ∀ x y s, exec (mk x y) s = finish (flagThen flag f x y s))

include hexec

/-- The operations of group 8 that read their operands after the flag, field `x`: with VF as the destination, with VF as the
source, and with neither. -/
theorem flagThen_x_told_apart (hdest : flag 3#8 3#8 ≠ f (flag 0x85#8 3#8) 3#8)
    (hsrc : 0x85#8 ≠ f 0x85#8 (flag 0x85#8 3#8)) (hnone : 0x85#8 ≠ f 0x85#8 3#8) :
    toldApart (mk x x') (mk x' x') := by
  refine toldApart_of_getV (s := probe x x') x (hexec _ _ _) (hexec _ _ _) ?_
  simp only [State.getV_returns, getV_flagThen, hne, getV_probe_left hne, getV_probe_right, if_true, if_false]
  rcases vf_cases hne with ⟨hx, hx'⟩ | ⟨hx, hx'⟩ | ⟨hx, hx'⟩
  · simpa [hx, hx'] using hdest
  · simpa [hx, hx'] using hsrc
  · simpa [hx, hx'] using hnone

/-- The same operations, field `y`. -/
theorem flagThen_y_told_apart (hdest : f (flag 0x85#8 3#8) 3#8 ≠ f (flag 0x85#8 0x85#8) (flag 0x85#8 0x85#8))
    (hsrc : f 0x85#8 (flag 0x85#8 3#8) ≠ f 0x85#8 0x85#8) (hnone : f 0x85#8 3#8 ≠ f 0x85#8 0x85#8) :
    toldApart (mk x x) (mk x x') := by
  refine toldApart_of_getV (s := probe x x') x (hexec _ _ _) (hexec _ _ _) ?_
  simp only [State.getV_returns, getV_flagThen, getV_probe_left hne, getV_probe_right, if_true]
  rcases vf_cases hne with ⟨hx, hx'⟩ | ⟨hx, hx'⟩ | ⟨hx, hx'⟩
  · simpa [hx, hx'] using hdest
  · simpa [hx, hx'] using hsrc
  · simpa [hx, hx'] using hnone

end flagged

theorem sub_told_apart : toldApart (.sub x x') (.sub x' x') ∧ toldApart (.sub x x) (.sub x x') :=
  ⟨flagThen_x_told_apart hne exec_sub (by decide) (by decide) (by decide),
   flagThen_y_told_apart hne exec_sub (by decide) (by decide) (by decide)⟩

theorem subn_told_apart : toldApart (.subn x x') (.subn x' x') ∧ toldApart (.subn x x) (.subn x x') :=
  ⟨flagThen_x_told_apart hne exec_subn (by decide) (by decide) (by decide),
   flagThen_y_told_apart hne exec_subn (by decide) (by decide) (by decide)⟩

theorem shift_x_told_apart : toldApart (.shr x x') (.shr x' x') ∧ toldApart (.shl x x') (.shl x' x') :=
  ⟨flagThen_x_told_apart hne exec_shr (by decide) (by decide) (by decide),
   flagThen_x_told_apart hne exec_shl (by decide) (by decide) (by decide)⟩

/-- The column, then the row, of a sprite of one row: `V[x]` places it at 5, `V[x']` at 3. -/
theorem drw_xy_told_apart : toldApart (.drw x x' 1) (.drw x' x' 1) ∧ toldApart (.drw x x 1) (.drw x x' 1) := by
  constructor
  · refine toldApart_drw_of_covers (probe x x') 3#6 3#5 (by decide) (by decide) ?_
    simp [hne, spriteCovers, read_solid]
  · refine toldApart_drw_of_covers (probe x x') 5#6 3#5 (by decide) (by decide) ?_
    simp [hne, spriteCovers, read_solid]

/-- Of the two keys the registers name, one is down. -/
theorem keySkip_told_apart : toldApart (.skp x) (.skp x') ∧ toldApart (.sknp x) (.sknp x') :=
  ⟨toldApart_of_pc (s := probe x x') rfl rfl (by simp [hne]), toldApart_of_pc (s := probe x x') rfl rfl (by simp [hne])⟩

/-- The instructions that move the register they name into MODE, a timer or I. -/
theorem modeTimerIndex_told_apart :
    toldApart (.ldVxK x) (.ldVxK x') ∧ toldApart (.ldDtVx x) (.ldDtVx x') ∧ toldApart (.ldStVx x) (.ldStVx x') ∧
    toldApart (.addIVx x) (.addIVx x') ∧ toldApart (.ldFVx x) (.ldFVx x') :=
  ⟨⟨probe x x', _, _, rfl, rfl, .mode, by simp [Part.same, hne.symm]⟩,
   ⟨probe x x', _, _, rfl, rfl, .dt, by simp [Part.same, hne]⟩,
   ⟨probe x x', _, _, rfl, rfl, .st, by simp [Part.same, hne]⟩,
   ⟨probe x x', _, _, rfl, rfl, .i, by simp [Part.same, hne, byteWord]⟩,
   ⟨probe x x', _, _, rfl, rfl, .i, by simp [Part.same, hne, glyphAddress, glyphHeight]⟩⟩

/-- The hundreds digits differ. -/
theorem ldBVx_told_apart : toldApart (.ldBVx x) (.ldBVx x') := by
  refine ⟨probe x x', _, _, rfl, rfl, .mem 0#12, ?_⟩
  have hread (bs : List Byte) (hl : bs.length = 3) : (solid.mem.writeBytes 0 bs).read 0 = bs[0] :=
    solid.mem.read_writeBytes_inside 0 0 bs (by omega) (by omega)
  simp [Part.same, hne, hread, bcdDigits]

omit hne in
/-- Only the longer run reaches the place of its last register. -/
theorem stRegs_told_apart_of_lt (h : x.toNat < x'.toNat) : toldApart (.stRegs x) (.stRegs x') := by
  have hx' : x'.toNat < 16 := x'.isLt
  have hshort : (solid.mem.writeBytes 0 ((probe x x').firstRegs (regCount x))).read x'.toNat = 0xFF#8 := by
    rw [Memory.read_writeBytes_outside, read_solid (by omega)]
    rw [length_firstRegs _ _ (regCount_le x), regCount]
    omega
  have hlong : (solid.mem.writeBytes 0 ((probe x x').firstRegs (regCount x'))).read (0 + x'.toNat) = 3#8 := by
    rw [read_writeBytes_firstRegs _ _ _ _ _ (regCount_le x') (Nat.lt_succ_self _), BitVec.ofNat_toNat, BitVec.setWidth_eq,
      getV_probe_right]
  rw [Nat.zero_add] at hlong
  have haddr : (x'.setWidth 12).toNat = x'.toNat := BitVec.toNat_setWidth_of_le (by decide)
  exact ⟨probe x x', _, _, rfl, rfl, .mem (x'.setWidth 12), by simp [Part.same, haddr, hshort, hlong]⟩

omit hne in
theorem ldRegs_told_apart_of_lt (h : x.toNat < x'.toNat) : toldApart (.ldRegs x) (.ldRegs x') := by
  have hbyte : solid.mem.read x'.toNat = 0xFF#8 := read_solid (x'.isLt.trans (by decide))
  refine toldApart_of_getV (s := probe x x') x' rfl rfl ?_
  rw [State.getV_returns, State.getV_returns, State.getV_setRegsFrom _ _ _ (by simpa using regCount_le x'),
    State.getV_setRegsFrom _ _ _ (by simpa using regCount_le x)]
  simp [regCount, Nat.not_le.2 h, Memory.getElem_readBytes, hbyte]

theorem regRun_told_apart : toldApart (.stRegs x) (.stRegs x') ∧ toldApart (.ldRegs x) (.ldRegs x') := by
  rcases Nat.lt_or_gt_of_ne (fun e => hne (BitVec.eq_of_toNat_eq e)) with h | h
  · exact ⟨stRegs_told_apart_of_lt h, ldRegs_told_apart_of_lt h⟩
  · exact ⟨(stRegs_told_apart_of_lt h).symm, (ldRegs_told_apart_of_lt h).symm⟩

end registers

/-- Settles O15: an instruction by its fields, each field by a state that shows it. -/
theorem onlyTheShiftsIgnoreAField : Obligations.OnlyTheShiftsIgnoreAField := by
  refine ⟨fun s x y y' => ⟨shr_ignores_y s x y y', shl_ignores_y s x y y'⟩, opcodeTable_encodes, nnn_told_apart,
    fun x x' hne => ?_, fun kk kk' h => ?_, fun n n' hn hn' h => ⟨0#4, 0#4, n_told_apart hn hn' h _ _⟩, exec_rnd_eq_iff⟩
  · obtain ⟨hse, hsne⟩ := immSkip_x_told_apart hne
    obtain ⟨hld, hadd, hrnd, hdt⟩ := write_x_told_apart hne
    obtain ⟨⟨hseX, hsneX⟩, hseY, hsneY⟩ := regSkip_told_apart hne
    obtain ⟨hldX, hldY⟩ := assign_told_apart hne (mk := .ldReg) (fun _ b => b) (fun _ _ _ => rfl) (by decide) (by decide)
    obtain ⟨horX, horY⟩ := assign_told_apart hne (mk := .orReg) (· ||| ·) (fun _ _ _ => rfl) (by decide) (by decide)
    obtain ⟨handX, handY⟩ := assign_told_apart hne (mk := .andReg) (· &&& ·) (fun _ _ _ => rfl) (by decide) (by decide)
    obtain ⟨hxorX, hxorY⟩ := assign_told_apart hne (mk := .xorReg) (· ^^^ ·) (fun _ _ _ => rfl) (by decide) (by decide)
    obtain ⟨haddX, haddY⟩ := addReg_told_apart hne
    obtain ⟨hsubX, hsubY⟩ := sub_told_apart hne
    obtain ⟨hsubnX, hsubnY⟩ := subn_told_apart hne
    obtain ⟨hshr, hshl⟩ := shift_x_told_apart hne
    obtain ⟨hdrwX, hdrwY⟩ := drw_xy_told_apart hne
    obtain ⟨hskp, hsknp⟩ := keySkip_told_apart hne
    obtain ⟨hk, hdtX, hst, haddI, hglyph⟩ := modeTimerIndex_told_apart hne
    obtain ⟨hstore, hload⟩ := regRun_told_apart hne
    exact ⟨⟨_, hse⟩, ⟨_, hsne⟩, ⟨_, hld⟩, ⟨_, hadd⟩, ⟨_, hrnd⟩, ⟨_, hseX⟩, ⟨_, hsneX⟩, ⟨_, hldX⟩, ⟨_, horX⟩, ⟨_, handX⟩,
      ⟨_, hxorX⟩, ⟨_, haddX⟩, ⟨_, hsubX⟩, ⟨_, hsubnX⟩, ⟨_, hshr⟩, ⟨_, hshl⟩, ⟨_, hseY⟩, ⟨_, hsneY⟩, ⟨_, hldY⟩, ⟨_, horY⟩,
      ⟨_, handY⟩, ⟨_, hxorY⟩, ⟨_, haddY⟩, ⟨_, hsubY⟩, ⟨_, hsubnY⟩, ⟨_, 1, by decide, hdrwX⟩, ⟨_, 1, by decide, hdrwY⟩,
      hskp, hsknp, hdt, hk, hdtX, hst, haddI, hglyph, ldBVx_told_apart hne, hstore, hload⟩
  · obtain ⟨hse, hsne, hld, hadd⟩ := kk_told_apart kk kk' h 0#4
    exact ⟨⟨_, hse⟩, ⟨_, hsne⟩, ⟨_, hld⟩, ⟨_, hadd⟩⟩

end Sys2Proof.Machine
end

section
/-! PROOFS. O17, O19, O20 (spec/41_control_flow.md R121, R123 to R127): the jumps and the skips on register values. -/

namespace Sys2Proof.Machine

/-! ## An instruction that writes PC and nothing else (R8, R20) -/

theorem unchangedBut_pc (s : State) (a : Word) (r : Result) : UnchangedBut [.pc] s ({ s with pc := a }.returns r) := by
  intro p hp
  cases p with
  | pc => exact absurd (List.mem_singleton_self _) hp
  | _ => rfl

theorem finish_setPc (s : State) {a : Word} {n : Nat} (h : a.toNat = n) :
    ∃ t, finish { s with pc := a } = .next t ∧ t.result = .ok ∧ t.pc.toNat = n ∧ UnchangedBut [.pc] s t :=
  ⟨_, finish_eq _, rfl, h, unchangedBut_pc s a .ok⟩

/-- A skip writes PC at most. -/
theorem State.skipIf_eq (s : State) (c : Bool) : s.skipIf c = { s with pc := (s.skipIf c).pc } := by
  cases c <;> rfl

/-- A skip in numbers: 2 more when the condition holds, modulo 65536 (R25, R129). -/
theorem State.skipIf_pc_toNat (s : State) (c : Prop) [Decidable c] :
    (s.skipIf (decide c)).pc.toNat = (s.pc.toNat + if c then 2 else 0) % 65536 := by
  by_cases h : c
  · simp [h, BitVec.toNat_add]
  · simp [h, Nat.mod_eq_of_lt s.pc.isLt]

theorem finish_skipIf (s : State) (c : Prop) [Decidable c] :
    ∃ t, finish (s.skipIf (decide c)) = .next t ∧ t.result = .ok ∧
      t.pc.toNat = (s.pc.toNat + if c then 2 else 0) % 65536 ∧ UnchangedBut [.pc] s t := by
  rw [s.skipIf_eq]
  exact finish_setPc s (s.skipIf_pc_toNat c)

/-- The complementary skip: 2 more when the condition fails. -/
theorem finish_skipIf_not (s : State) (c : Prop) [Decidable c] :
    ∃ t, finish (s.skipIf (decide (¬ c))) = .next t ∧ t.result = .ok ∧
      t.pc.toNat = (s.pc.toNat + if c then 0 else 2) % 65536 ∧ UnchangedBut [.pc] s t := by
  simpa only [ite_not] using finish_skipIf s (¬ c)

/-! ## The targets of the jumps (R94) -/

theorem immWord_toNat (nnn : Imm12) : (immWord nnn).toNat = nnn.toNat := BitVec.toNat_setWidth_of_le (by decide)

/-- The sum of a byte and a 12-bit immediate fits in 16 bits (R127). -/
theorem State.offsetTarget_toNat (s : State) (nnn : Imm12) :
    (s.offsetTarget nnn).toNat = (s.getV 0#4).toNat + nnn.toNat := by
  have hbyte : (byteWord (s.getV 0#4)).toNat = (s.getV 0#4).toNat := BitVec.toNat_setWidth_of_le (by decide)
  rw [State.offsetTarget, BitVec.toNat_add_of_lt (by rw [hbyte, immWord_toNat]; omega), hbyte, immWord_toNat]

/-! ## The words of the jumps and skips (R92, R93) -/

theorem decode_jp (nnn : Imm12) : decode (0x1#4 ++ nnn) = .ok (.jp nnn) := by
  obtain ⟨htop, hnnn⟩ := fields_of_nnn 0x1#4 nnn
  rw [decode_top1 htop, hnnn]

theorem decode_jpV0 (nnn : Imm12) : decode (0xB#4 ++ nnn) = .ok (.jpV0 nnn) := by
  obtain ⟨htop, hnnn⟩ := fields_of_nnn 0xB#4 nnn
  rw [decode_topB htop, hnnn]

theorem decode_seImm (x : RegIx) (kk : Byte) : decode (0x3#4 ++ x ++ kk) = .ok (.seImm x kk) := by
  obtain ⟨htop, hx, hkk⟩ := fields_of_x_kk 0x3#4 x kk
  rw [decode_top3 htop, hx, hkk]

theorem decode_sneImm (x : RegIx) (kk : Byte) : decode (0x4#4 ++ x ++ kk) = .ok (.sneImm x kk) := by
  obtain ⟨htop, hx, hkk⟩ := fields_of_x_kk 0x4#4 x kk
  rw [decode_top4 htop, hx, hkk]

theorem decode_seReg (x y : RegIx) (n : BitVec 4) : decode (0x5#4 ++ x ++ y ++ n) =
    if n = 0#4 then .ok (.seReg x y) else .error (.unassigned (0x5#4 ++ x ++ y ++ n)) := by
  obtain ⟨htop, hx, hy, hn⟩ := fields_of_x_y_n 0x5#4 x y n
  rw [decode_top5 htop, hx, hy, hn]

theorem decode_sneReg (x y : RegIx) (n : BitVec 4) : decode (0x9#4 ++ x ++ y ++ n) =
    if n = 0#4 then .ok (.sneReg x y) else .error (.unassigned (0x9#4 ++ x ++ y ++ n)) := by
  obtain ⟨htop, hx, hy, hn⟩ := fields_of_x_y_n 0x9#4 x y n
  rw [decode_top9 htop, hx, hy, hn]

/-! ## The obligations -/

/-- Settles O17: both jumps only write PC, and neither target wraps. -/
theorem jumpsSetPc : Obligations.JumpsSetPc := fun s nnn =>
  ⟨decode_jp nnn, decode_jpV0 nnn, finish_setPc s (immWord_toNat nnn), finish_setPc s (s.offsetTarget_toNat nnn)⟩

/-- Settles O19: the two instructions are a skip and its complement on one condition. -/
theorem immediateSkipsCompareRegister : Obligations.ImmediateSkipsCompareRegister := fun s x kk =>
  ⟨decode_seImm x kk, decode_sneImm x kk, finish_skipIf s (s.getV x = kk), finish_skipIf_not s (s.getV x = kk)⟩

/-- Settles O20: as for the immediate skips; the low digit decides whether the word is assigned (D4). -/
theorem registerSkipsCompareRegisters : Obligations.RegisterSkipsCompareRegisters := fun s x y =>
  ⟨decode_seReg x y, decode_sneReg x y, finish_skipIf s (s.getV x = s.getV y), finish_skipIf_not s (s.getV x = s.getV y)⟩

end Sys2Proof.Machine
end

section
/-! PROOFS. O22 to O29 (spec/42_alu.md R130 to R140, R142): loads, arithmetic, logic and shifts. -/

namespace Sys2Proof

/-! ## The words of the loads and of group 8 (R92, R93) -/

theorem decode_ldImm (x : RegIx) (kk : Byte) : decode (0x6#4 ++ x ++ kk) = .ok (.ldImm x kk) := by
  obtain ⟨htop, hx, hkk⟩ := fields_of_x_kk 0x6#4 x kk
  rw [decode_top6 htop, hx, hkk]

theorem decode_addImm (x : RegIx) (kk : Byte) : decode (0x7#4 ++ x ++ kk) = .ok (.addImm x kk) := by
  obtain ⟨htop, hx, hkk⟩ := fields_of_x_kk 0x7#4 x kk
  rw [decode_top7 htop, hx, hkk]

/-- Group 8: the last digit selects the operation. -/
theorem decode_group8 (mk : RegIx → RegIx → Instr) (f : BitVec 4)
    (h : ∀ op, fieldN op = f → decode8 op = .ok (mk (fieldX op) (fieldY op))) (x y : RegIx) :
    decode (0x8#4 ++ x ++ y ++ f) = .ok (mk x y) := by
  obtain ⟨htop, hx, hy, hn⟩ := fields_of_x_y_n 0x8#4 x y f
  rw [decode_top8 htop, h _ hn, hx, hy]

theorem decode_ldReg : ∀ x y : RegIx, decode (0x8#4 ++ x ++ y ++ 0x0#4) = .ok (.ldReg x y) :=
  decode_group8 .ldReg 0x0#4 fun op h => by simp [decode8, h]

theorem decode_orReg : ∀ x y : RegIx, decode (0x8#4 ++ x ++ y ++ 0x1#4) = .ok (.orReg x y) :=
  decode_group8 .orReg 0x1#4 fun op h => by simp [decode8, h]

theorem decode_andReg : ∀ x y : RegIx, decode (0x8#4 ++ x ++ y ++ 0x2#4) = .ok (.andReg x y) :=
  decode_group8 .andReg 0x2#4 fun op h => by simp [decode8, h]

theorem decode_xorReg : ∀ x y : RegIx, decode (0x8#4 ++ x ++ y ++ 0x3#4) = .ok (.xorReg x y) :=
  decode_group8 .xorReg 0x3#4 fun op h => by simp [decode8, h]

theorem decode_addReg : ∀ x y : RegIx, decode (0x8#4 ++ x ++ y ++ 0x4#4) = .ok (.addReg x y) :=
  decode_group8 .addReg 0x4#4 fun op h => by simp [decode8, h]

theorem decode_sub : ∀ x y : RegIx, decode (0x8#4 ++ x ++ y ++ 0x5#4) = .ok (.sub x y) :=
  decode_group8 .sub 0x5#4 fun op h => by simp [decode8, h]

theorem decode_shr : ∀ x y : RegIx, decode (0x8#4 ++ x ++ y ++ 0x6#4) = .ok (.shr x y) :=
  decode_group8 .shr 0x6#4 fun op h => by simp [decode8, h]

theorem decode_subn : ∀ x y : RegIx, decode (0x8#4 ++ x ++ y ++ 0x7#4) = .ok (.subn x y) :=
  decode_group8 .subn 0x7#4 fun op h => by simp [decode8, h]

theorem decode_shl : ∀ x y : RegIx, decode (0x8#4 ++ x ++ y ++ 0xE#4) = .ok (.shl x y) :=
  decode_group8 .shl 0xE#4 fun op h => by simp [decode8, h]

end Sys2Proof

namespace Sys2Proof.Machine

/-! ## Bytes and flags as numbers (R22, R141) -/

theorem byte_sub_toNat (a b : Byte) : (a - b).toNat = (256 + a.toNat - b.toNat) % 256 := by
  rw [BitVec.toNat_sub]
  omega

theorem byte_shiftRight_one_toNat (a : Byte) : (a >>> 1).toNat = a.toNat / 2 := by
  rw [BitVec.toNat_ushiftRight, Nat.shiftRight_eq_div_pow, Nat.pow_one]

theorem byte_shiftLeft_one_toNat (a : Byte) : (a <<< 1).toNat = 2 * a.toNat % 256 := by
  rw [BitVec.toNat_shiftLeft, Nat.shiftLeft_eq, Nat.pow_one, Nat.mul_comm]

theorem flagByte_decide_toNat (c : Prop) [Decidable c] : (flagByte (decide c)).toNat = if c then 1 else 0 := by
  by_cases h : c <;> simp [flagByte, h]

theorem carryFlag_toNat (a b : Byte) : (carryFlag a b).toNat = if 255 < a.toNat + b.toNat then 1 else 0 :=
  flagByte_decide_toNat _

theorem notBorrowFlag_toNat (a b : Byte) : (notBorrowFlag a b).toNat = if b.toNat < a.toNat then 1 else 0 :=
  flagByte_decide_toNat _

theorem lowBitFlag_toNat (a : Byte) : (lowBitFlag a).toNat = a.toNat % 2 := by
  have hbit : a.getLsbD 0 = decide (a.toNat % 2 = 1) := Nat.testBit_zero _
  rw [lowBitFlag, hbit, flagByte_decide_toNat]
  split <;> omega

theorem highBitFlag_toNat (a : Byte) : (highBitFlag a).toNat = a.toNat / 128 := by
  have hbit : a.getLsbD 7 = decide (128 ≤ a.toNat) := BitVec.msb_eq_decide a
  rw [highBitFlag, hbit, flagByte_decide_toNat]
  split <;> omega

/-! ## An instruction that writes registers and nothing else (R8, R20) -/

theorem unchangedBut_of_regs {s t : State} {touched : List Part}
    (hframe : t = { s with regs := t.regs, result := t.result })
    (hregs : ∀ k, .v k ∉ touched → t.getV k = s.getV k) : UnchangedBut touched s t := by
  intro p hp
  cases p with
  | v k => exact hregs k hp
  | _ => rw [hframe]; rfl

theorem unchangedBut_setV (s : State) (x : RegIx) (b : Byte) (r : Result) :
    UnchangedBut [.v x] s ((s.setV x b).returns r) :=
  unchangedBut_of_regs rfl fun _ hk => State.getV_setV_of_ne s b fun e => hk (by simp [e])

theorem unchangedBut_setFlag_setV (s : State) (x : RegIx) (f b : Byte) (r : Result) :
    UnchangedBut [.v x, .v vf] s (((s.setFlag f).setV x b).returns r) := by
  refine unchangedBut_of_regs rfl fun k hk => ?_
  have hx : k ≠ x := fun e => hk (by simp [e])
  have hvf : k ≠ vf := fun e => hk (by simp [e])
  rw [State.getV_returns, State.getV_setV_of_ne _ _ hx, State.getV_setFlag, if_neg hvf]

/-! ## The shapes of the instructions: one register, bit by bit, flag then sum, flag then operands (R142) -/

theorem finish_setV (s : State) (x : RegIx) (b : Byte) :
    ∃ t, finish (s.setV x b) = .next t ∧ t.result = .ok ∧ t.getV x = b ∧ UnchangedBut [.v x] s t :=
  ⟨_, finish_eq _, rfl, s.getV_setV_self x b, unchangedBut_setV s x b .ok⟩

/-- An operation that works bit by bit. -/
theorem finish_setV_bitwise (s : State) (x y : RegIx) {f : Byte → Byte → Byte} {g : Bool → Bool → Bool}
    (hbit : ∀ a b i, (f a b).getLsbD i = g (a.getLsbD i) (b.getLsbD i)) :
    ∃ t, finish (s.setV x (f (s.getV x) (s.getV y))) = .next t ∧ t.result = .ok ∧ UnchangedBut [.v x] s t ∧
      ∀ i, (t.getV x).getLsbD i = g ((s.getV x).getLsbD i) ((s.getV y).getLsbD i) := by
  obtain ⟨t, ht, hok, hx, hframe⟩ := finish_setV s x (f (s.getV x) (s.getV y))
  exact ⟨t, ht, hok, hframe, fun i => by rw [hx, hbit]⟩

/-- The flag, then the result: with `x = 15` the result, written last, stays in VF. -/
theorem finish_setFlag_setV (s : State) (x : RegIx) (f b : Byte) :
    ∃ t, finish ((s.setFlag f).setV x b) = .next t ∧ t.result = .ok ∧ t.getV x = b ∧
      (x ≠ vf → t.getV vf = f) ∧ UnchangedBut [.v x, .v vf] s t := by
  refine ⟨_, finish_eq _, rfl, State.getV_setV_self _ x b, fun hx => ?_, unchangedBut_setFlag_setV s x f b .ok⟩
  rw [State.getV_returns, State.getV_setV_of_ne _ _ hx.symm, State.getV_setFlag, if_pos rfl]

/-- The flag, then a result whose operands are read again: an operand that is VF counts as the flag. -/
theorem finish_flagThen (flag f : Byte → Byte → Byte) (x y : RegIx) (s : State) {φ : Byte}
    (hφ : flag (s.getV x) (s.getV y) = φ) :
    ∃ t, finish (flagThen flag f x y s) = .next t ∧ t.result = .ok ∧
      t.getV x = f (if x = vf then φ else s.getV x) (if y = vf then φ else s.getV y) ∧
      (x ≠ vf → t.getV vf = φ) ∧ UnchangedBut [.v x, .v vf] s t := by
  subst hφ
  simp only [← State.getV_setFlag]
  exact finish_setFlag_setV s x (flag (s.getV x) (s.getV y)) _

/-! ## The obligations -/

/-- Settles O22: both loads are one register write. -/
theorem loadsCopyTheirOperandIntoRegister : Obligations.LoadsCopyTheirOperandIntoRegister := fun s x y kk =>
  ⟨decode_ldImm x kk, decode_ldReg x y, finish_setV s x kk, finish_setV s x (s.getV y)⟩

/-- Settles O23: one register write, of a sum modulo 256. -/
theorem addImmediateWrapsWithoutFlag : Obligations.AddImmediateWrapsWithoutFlag := by
  intro s x kk
  obtain ⟨t, ht, hok, hx, hframe⟩ := finish_setV s x (s.getV x + kk)
  exact ⟨decode_addImm x kk, t, ht, hok, by rw [hx, BitVec.toNat_add], hframe⟩

/-- Settles O24: three operations that work bit by bit. -/
theorem logicWorksBitByBitWithoutFlag : Obligations.LogicWorksBitByBitWithoutFlag := fun s x y =>
  ⟨decode_orReg x y, decode_andReg x y, decode_xorReg x y,
    finish_setV_bitwise s x y fun _ _ _ => BitVec.getLsbD_or,
    finish_setV_bitwise s x y fun _ _ _ => BitVec.getLsbD_and,
    finish_setV_bitwise s x y fun _ _ _ => BitVec.getLsbD_xor⟩

/-- Settles O25: the carry is written first, and the sum of the old operands last. -/
theorem addRegistersSetsCarry : Obligations.AddRegistersSetsCarry := by
  intro s x y
  obtain ⟨t, ht, hok, hx, hvf, hframe⟩ :=
    finish_setFlag_setV s x (carryFlag (s.getV x) (s.getV y)) (s.getV x + s.getV y)
  exact ⟨decode_addReg x y, t, ht, hok, by rw [hx, BitVec.toNat_add], fun h => by rw [hvf h, carryFlag_toNat], hframe⟩

/-- Settles O26: the flag, then the difference of the operands as the flag left them. -/
theorem subtractSetsStrictNotBorrow : Obligations.SubtractSetsStrictNotBorrow := by
  refine fun s x y => ⟨decode_sub x y, ?_⟩
  rintro a b f rfl rfl rfl
  obtain ⟨t, ht, hok, hx, hvf, hframe⟩ := finish_flagThen notBorrowFlag (· - ·) x y s rfl
  refine ⟨t, (exec_sub x y s).trans ht, hok, ?_, fun h => by rw [hvf h, notBorrowFlag_toNat], hframe⟩
  rw [hx, byte_sub_toNat, apply_ite BitVec.toNat, apply_ite BitVec.toNat, notBorrowFlag_toNat]

/-- Settles O27: as O26, with flag and difference of the operands exchanged. -/
theorem reverseSubtractSetsStrictNotBorrow : Obligations.ReverseSubtractSetsStrictNotBorrow := by
  refine fun s x y => ⟨decode_subn x y, ?_⟩
  rintro a b f rfl rfl rfl
  obtain ⟨t, ht, hok, hx, hvf, hframe⟩ :=
    finish_flagThen (fun a b => notBorrowFlag b a) (fun a b => b - a) x y s rfl
  refine ⟨t, (exec_subn x y s).trans ht, hok, ?_, fun h => by rw [hvf h, notBorrowFlag_toNat], hframe⟩
  rw [hx, byte_sub_toNat, apply_ite BitVec.toNat, apply_ite BitVec.toNat, notBorrowFlag_toNat]

/-- Settles O28: with `x = 15` what is shifted is the flag, 0 or 1, and its half is 0. -/
theorem shiftRightMovesLowBitToFlag : Obligations.ShiftRightMovesLowBitToFlag := by
  intro s x y
  obtain ⟨t, ht, hok, hx, hvf, hframe⟩ := finish_flagThen (fun a _ => lowBitFlag a) (fun a _ => a >>> 1) x y s rfl
  refine ⟨decode_shr x y, t, (exec_shr x y s).trans ht, hok, fun h => ⟨?_, ?_⟩, ?_, hframe⟩
  · rw [hx, if_neg h, byte_shiftRight_one_toNat]
  · rw [hvf h, lowBitFlag_toNat]
  · rintro rfl
    rw [hx, if_pos rfl, byte_shiftRight_one_toNat, lowBitFlag_toNat]
    omega

/-- Settles O29: with `x = 15` what is shifted is the flag, 0 or 1, and its double does not wrap. -/
theorem shiftLeftMovesHighBitToFlag : Obligations.ShiftLeftMovesHighBitToFlag := by
  intro s x y
  obtain ⟨t, ht, hok, hx, hvf, hframe⟩ := finish_flagThen (fun a _ => highBitFlag a) (fun a _ => a <<< 1) x y s rfl
  refine ⟨decode_shl x y, t, (exec_shl x y s).trans ht, hok, fun h => ⟨?_, ?_⟩, ?_, hframe⟩
  · rw [hx, if_neg h, byte_shiftLeft_one_toNat]
  · rw [hvf h, highBitFlag_toNat]
  · rintro rfl
    rw [hx, if_pos rfl, byte_shiftLeft_one_toNat, highBitFlag_toNat]
    omega

end Sys2Proof.Machine
end

section
/-! PROOFS. O31, O32 (spec/43_index_memory.md R150, R151): loading the index register and adding to it. -/

namespace Sys2Proof

/-! ## The words of the index instructions (R92, R93) -/

theorem decode_ldI (nnn : Imm12) : decode (0xA#4 ++ nnn) = .ok (.ldI nnn) := by
  obtain ⟨htop, hnnn⟩ := fields_of_nnn 0xA#4 nnn
  rw [decode_topA htop, hnnn]

/-- Group F: the low byte selects the operation. -/
theorem decode_groupF (mk : RegIx → Instr) (f : Byte)
    (h : ∀ op, fieldKK op = f → decodeF op = .ok (mk (fieldX op))) (x : RegIx) :
    decode (0xF#4 ++ x ++ f) = .ok (mk x) := by
  obtain ⟨htop, hx, hkk⟩ := fields_of_x_kk 0xF#4 x f
  rw [decode_topF htop, h _ hkk, hx]

theorem decode_addIVx : ∀ x : RegIx, decode (0xF#4 ++ x ++ 0x1E#8) = .ok (.addIVx x) :=
  decode_groupF .addIVx 0x1E#8 fun op h => by simp [decodeF, h]

end Sys2Proof

namespace Sys2Proof.Machine

/-! ## An instruction that writes I and nothing else (R8, R20) -/

theorem unchangedBut_i (s : State) (a : Word) (r : Result) : UnchangedBut [.i] s ({ s with i := a }.returns r) := by
  intro p hp
  cases p with
  | i => exact absurd (List.mem_singleton_self _) hp
  | _ => rfl

theorem finish_setI (s : State) {a : Word} {n : Nat} (h : a.toNat = n) :
    ∃ t, finish { s with i := a } = .next t ∧ t.result = .ok ∧ t.i.toNat = n ∧ UnchangedBut [.i] s t :=
  ⟨_, finish_eq _, rfl, h, unchangedBut_i s a .ok⟩

/-! ## A byte as a word (R151) -/

theorem byteWord_toNat (b : Byte) : (byteWord b).toNat = b.toNat := BitVec.toNat_setWidth_of_le (by decide)

theorem add_byteWord_toNat (a : Word) (b : Byte) : (a + byteWord b).toNat = (a.toNat + b.toNat) % 65536 := by
  rw [BitVec.toNat_add, byteWord_toNat]

/-! ## The obligations -/

/-- Settles O31: one write of I, of the immediate extended with zeros. -/
theorem loadIndexSetsImmediate : Obligations.LoadIndexSetsImmediate := fun s nnn =>
  ⟨decode_ldI nnn, finish_setI s (immWord_toNat nnn)⟩

/-- Settles O32: one write of I, of a sum modulo 65536. -/
theorem addToIndexWrapsAtSixteenBits : Obligations.AddToIndexWrapsAtSixteenBits := fun s x =>
  ⟨decode_addIVx x, finish_setI s (add_byteWord_toNat s.i (s.getV x))⟩

end Sys2Proof.Machine
end

section
/-! PROOFS. O39 (spec/44_display.md R160): clearing the framebuffer. -/

namespace Sys2Proof

theorem decode_cls : decode 0x00E0#16 = .ok .cls := by decide

end Sys2Proof

namespace Sys2Proof.Machine

/-! ## An instruction that writes the framebuffer and nothing else (R8, R20) -/

/-- `fbParts` leaves no cell out. -/
theorem fb_mem_fbParts (x : BitVec 6) (y : BitVec 5) : .fb x y ∈ fbParts :=
  List.mem_flatMap.2 ⟨x.toNat, List.mem_range.2 x.isLt,
    List.mem_map.2 ⟨y.toNat, List.mem_range.2 y.isLt, by simp⟩⟩

theorem unchangedBut_fb (s : State) (fb : Framebuffer) (r : Result) :
    UnchangedBut fbParts s ({ s with fb := fb }.returns r) := by
  intro p hp
  cases p with
  | fb x y => exact absurd (fb_mem_fbParts x y) hp
  | _ => rfl

/-! ## The obligation -/

/-- Settles O39: one write of the framebuffer, of the blank one. -/
theorem clearTurnsEveryCellOff : Obligations.ClearTurnsEveryCellOff := fun s =>
  ⟨decode_cls, _, finish_eq _, rfl, Framebuffer.get_blank, unchangedBut_fb s Framebuffer.blank .ok⟩

end Sys2Proof.Machine
end

section
/-! PROOFS. O44 (spec/46_timers.md R180, R181, R182): copies between a register and a timer. -/

namespace Sys2Proof

theorem decode_ldVxDt : ∀ x : RegIx, decode (0xF#4 ++ x ++ 0x07#8) = .ok (.ldVxDt x) :=
  decode_groupF .ldVxDt 0x07#8 fun op h => by simp [decodeF, h]

theorem decode_ldDtVx : ∀ x : RegIx, decode (0xF#4 ++ x ++ 0x15#8) = .ok (.ldDtVx x) :=
  decode_groupF .ldDtVx 0x15#8 fun op h => by simp [decodeF, h]

theorem decode_ldStVx : ∀ x : RegIx, decode (0xF#4 ++ x ++ 0x18#8) = .ok (.ldStVx x) :=
  decode_groupF .ldStVx 0x18#8 fun op h => by simp [decodeF, h]

end Sys2Proof

namespace Sys2Proof.Machine

/-! ## An instruction that writes one timer and nothing else (R8, R20) -/

theorem unchangedBut_dt (s : State) (b : Byte) (r : Result) : UnchangedBut [.dt] s ({ s with dt := b }.returns r) := by
  intro p hp
  cases p with
  | dt => exact absurd (List.mem_singleton_self _) hp
  | _ => rfl

theorem unchangedBut_st (s : State) (b : Byte) (r : Result) : UnchangedBut [.st] s ({ s with st := b }.returns r) := by
  intro p hp
  cases p with
  | st => exact absurd (List.mem_singleton_self _) hp
  | _ => rfl

theorem finish_setDt (s : State) (b : Byte) :
    ∃ t, finish { s with dt := b } = .next t ∧ t.result = .ok ∧ t.dt = b ∧ UnchangedBut [.dt] s t :=
  ⟨_, finish_eq _, rfl, rfl, unchangedBut_dt s b .ok⟩

theorem finish_setSt (s : State) (b : Byte) :
    ∃ t, finish { s with st := b } = .next t ∧ t.result = .ok ∧ t.st = b ∧ UnchangedBut [.st] s t :=
  ⟨_, finish_eq _, rfl, rfl, unchangedBut_st s b .ok⟩

/-! ## The obligation -/

/-- Settles O44: one write each, of register `x`, of DT and of ST. -/
theorem timerInstructionsMoveOneByte : Obligations.TimerInstructionsMoveOneByte := fun s x =>
  ⟨decode_ldVxDt x, decode_ldDtVx x, decode_ldStVx x,
    finish_setV s x s.dt, finish_setDt s (s.getV x), finish_setSt s (s.getV x)⟩

end Sys2Proof.Machine
end

section
/-! PROOFS. O18, O46, O49 (spec/47_host_transactions.md R193, R196, R197): the queries and KEY_UP. -/

namespace Sys2Proof.Machine

/-! ## A transaction that writes nothing, or KEYS and nothing else (R8, R20) -/

theorem unchangedBut_returns (s : State) (r : Result) : UnchangedBut [] s (s.returns r) := by
  intro p _
  cases p <;> rfl

theorem unchangedBut_keys (s : State) (keys : BitVec 16) (r : Result) :
    UnchangedBut [.keys] s ({ s with keys := keys }.returns r) := by
  intro p hp
  cases p with
  | keys => exact absurd (List.mem_singleton_self _) hp
  | _ => rfl

/-! ## A cell as a bit of its row (R31) -/

theorem Framebuffer.exists_row (fb : Framebuffer) (x y : Nat) :
    ∃ row, fb[y % 32]? = some row ∧ fb.get x y = row.getLsbD (x % 64) :=
  ⟨_, Vector.getElem?_eq_getElem (Nat.mod_lt y (by decide)), rfl⟩

/-! ## The obligations -/

/-- Settles O18: the poll writes only what the transaction returns. -/
theorem timerPollAnswersBothTimers : Obligations.TimerPollAnswersBothTimers := fun s =>
  ⟨_, rfl, unchangedBut_returns s (.timers s.dt s.st), rfl⟩

/-- Settles O46: NONE writes nothing, and a key writes KEYS once, without its own bit. -/
theorem keyUpClearsItsKeyOnly : Obligations.KeyUpClearsItsKeyOnly := by
  refine fun s => ⟨⟨_, rfl, rfl, unchangedBut_returns s .nothing⟩, fun k => ?_⟩
  refine ⟨_, rfl, rfl, fun j => ?_, unchangedBut_keys s (releaseKey s.keys k) .nothing⟩
  rw [decide_not]
  exact getLsbD_releaseKey s.keys k j

/-- Settles O49: the query returns the cell, a bit of its row, and writes nothing else. -/
theorem framebufferQueryAnswersCell : Obligations.FramebufferQueryAnswersCell := by
  intro s x y
  obtain ⟨row, hrow, hcell⟩ := s.fb.exists_row x y
  exact ⟨_, rfl, unchangedBut_returns s (.pixel (s.fb.get x y)), row, hrow, congrArg Result.pixel hcell⟩

end Sys2Proof.Machine
end

section
/-! PROOFS. O1 to O5 (spec/30_encoding.md R91 to R96): the decoder, the encoder and the table of masks agree. -/

namespace Sys2Proof

/-! ## The words of the remaining instructions (R92, R93) -/

theorem decode_ret : decode 0x00EE#16 = .ok .ret := by decide

theorem decode_call (nnn : Imm12) : decode (0x2#4 ++ nnn) = .ok (.call nnn) := by
  obtain ⟨htop, hnnn⟩ := fields_of_nnn 0x2#4 nnn
  rw [decode_top2 htop, hnnn]

theorem decode_rnd (x : RegIx) (kk : Byte) : decode (0xC#4 ++ x ++ kk) = .ok (.rnd x kk) := by
  obtain ⟨htop, hx, hkk⟩ := fields_of_x_kk 0xC#4 x kk
  rw [decode_topC htop, hx, hkk]

/-- A row count below 16 is what its 4-bit field gives back. -/
theorem decode_drw (x y : RegIx) {n : Nat} (hn : n < 16) :
    decode (0xD#4 ++ x ++ y ++ BitVec.ofNat 4 n) = .ok (.drw x y n) := by
  obtain ⟨htop, hx, hy, hlow⟩ := fields_of_x_y_n 0xD#4 x y (BitVec.ofNat 4 n)
  rw [decode_topD htop, hx, hy, hlow, BitVec.toNat_ofNat, Nat.mod_eq_of_lt hn]

/-- Group E: the low byte selects the skip. -/
theorem decode_groupE (mk : RegIx → Instr) (f : Byte)
    (h : ∀ op, fieldKK op = f → decodeE op = .ok (mk (fieldX op))) (x : RegIx) :
    decode (0xE#4 ++ x ++ f) = .ok (mk x) := by
  obtain ⟨htop, hx, hkk⟩ := fields_of_x_kk 0xE#4 x f
  rw [decode_topE htop, h _ hkk, hx]

theorem decode_skp : ∀ x : RegIx, decode (0xE#4 ++ x ++ 0x9E#8) = .ok (.skp x) :=
  decode_groupE .skp 0x9E#8 fun op h => by simp [decodeE, h]

theorem decode_sknp : ∀ x : RegIx, decode (0xE#4 ++ x ++ 0xA1#8) = .ok (.sknp x) :=
  decode_groupE .sknp 0xA1#8 fun op h => by simp [decodeE, h]

theorem decode_ldVxK : ∀ x : RegIx, decode (0xF#4 ++ x ++ 0x0A#8) = .ok (.ldVxK x) :=
  decode_groupF .ldVxK 0x0A#8 fun op h => by simp [decodeF, h]

theorem decode_ldFVx : ∀ x : RegIx, decode (0xF#4 ++ x ++ 0x29#8) = .ok (.ldFVx x) :=
  decode_groupF .ldFVx 0x29#8 fun op h => by simp [decodeF, h]

theorem decode_ldBVx : ∀ x : RegIx, decode (0xF#4 ++ x ++ 0x33#8) = .ok (.ldBVx x) :=
  decode_groupF .ldBVx 0x33#8 fun op h => by simp [decodeF, h]

theorem decode_stRegs : ∀ x : RegIx, decode (0xF#4 ++ x ++ 0x55#8) = .ok (.stRegs x) :=
  decode_groupF .stRegs 0x55#8 fun op h => by simp [decodeF, h]

theorem decode_ldRegs : ∀ x : RegIx, decode (0xF#4 ++ x ++ 0x65#8) = .ok (.ldRegs x) :=
  decode_groupF .ldRegs 0x65#8 fun op h => by simp [decodeF, h]

/-! ## Decoding an encoding -/

theorem decode_encode (i : Instr) (h : i.wellFormed = true) : decode (encode i) = .ok i := by
  cases i with
  | cls => exact decode_cls
  | ret => exact decode_ret
  | jp nnn => exact Machine.decode_jp nnn
  | call nnn => exact decode_call nnn
  | seImm x kk => exact Machine.decode_seImm x kk
  | sneImm x kk => exact Machine.decode_sneImm x kk
  | seReg x y => exact Machine.decode_seReg x y 0#4
  | ldImm x kk => exact decode_ldImm x kk
  | addImm x kk => exact decode_addImm x kk
  | ldReg x y => exact decode_ldReg x y
  | orReg x y => exact decode_orReg x y
  | andReg x y => exact decode_andReg x y
  | xorReg x y => exact decode_xorReg x y
  | addReg x y => exact decode_addReg x y
  | sub x y => exact decode_sub x y
  | shr x y => exact decode_shr x y
  | subn x y => exact decode_subn x y
  | shl x y => exact decode_shl x y
  | sneReg x y => exact Machine.decode_sneReg x y 0#4
  | ldI nnn => exact decode_ldI nnn
  | jpV0 nnn => exact Machine.decode_jpV0 nnn
  | rnd x kk => exact decode_rnd x kk
  | drw x y n => exact decode_drw x y (of_decide_eq_true h)
  | skp x => exact decode_skp x
  | sknp x => exact decode_sknp x
  | ldVxDt x => exact decode_ldVxDt x
  | ldVxK x => exact decode_ldVxK x
  | ldDtVx x => exact decode_ldDtVx x
  | ldStVx x => exact decode_ldStVx x
  | addIVx x => exact decode_addIVx x
  | ldFVx x => exact decode_ldFVx x
  | ldBVx x => exact decode_ldBVx x
  | stRegs x => exact decode_stRegs x
  | ldRegs x => exact decode_ldRegs x

/-- The two bytes of an opcode decode as the opcode does, and what follows them is answered (R61). -/
theorem decodeBytes_split (op : Word) (rest : List Byte) :
    decodeBytes (op.extractLsb' 8 8 :: op.extractLsb' 0 8 :: rest) = (decode op).map (fun i => (i, rest)) := by
  rw [decodeBytes, opcodeOfBytes_split]

/-! ## Encoding what was decoded: everything the decoder can answer -/

/-- `d` is an answer the decoder may give for `op`: the rejection of `op`, or a well-formed instruction whose encoding is
`op`. -/
def DecodesTo (op : Word) (d : Except Reject Instr) : Prop :=
  d = .error (.unassigned op) ∨ ∃ i : Instr, d = .ok i ∧ i.wellFormed = true ∧ encode i = op

section decodesTo

variable {op : Word}

theorem decodesTo_error : DecodesTo op (.error (.unassigned op)) := .inl rfl

theorem decodesTo_ok {i : Instr} (hwf : i.wellFormed = true) (h : encode i = op) : DecodesTo op (.ok i) :=
  .inr ⟨i, rfl, hwf, h⟩

theorem decodesTo_ite {c : Prop} [Decidable c] {a b : Except Reject Instr} (ha : c → DecodesTo op a)
    (hb : DecodesTo op b) : DecodesTo op (if c then a else b) := by
  by_cases h : c
  · rw [if_pos h]; exact ha h
  · rw [if_neg h]; exact hb

/-- Format `NNN`. -/
theorem nnn_of_top {t : BitVec 4} (h : fieldTop op = t) : t ++ fieldNNN op = op := h ▸ top_append_nnn op

/-- Format `XKK`, and format `X` when the low byte is fixed. -/
theorem x_kk_of_top {t : BitVec 4} (h : fieldTop op = t) {kk : Byte} (hkk : fieldKK op = kk) : t ++ fieldX op ++ kk = op :=
  h ▸ hkk ▸ top_append_x_kk op

/-- Format `XYN`, and format `XY` when the last digit is fixed. -/
theorem x_y_n_of_top {t : BitVec 4} (h : fieldTop op = t) {n : BitVec 4} (hn : fieldN op = n) :
    t ++ fieldX op ++ fieldY op ++ n = op := h ▸ hn ▸ top_append_x_y_n op

theorem decode0_decodesTo : DecodesTo op (decode0 op) :=
  decodesTo_ite (fun h => decodesTo_ok rfl h.symm) <| decodesTo_ite (fun h => decodesTo_ok rfl h.symm) decodesTo_error

/-- Group 8, an arm: the last digit `f` is fixed. -/
theorem arm8_decodesTo (h : fieldTop op = 0x8#4) (f : BitVec 4) (mk : RegIx → RegIx → Instr)
    (hwf : ∀ x y, (mk x y).wellFormed = true) (he : ∀ x y, encode (mk x y) = 0x8#4 ++ x ++ y ++ f)
    (hf : fieldN op = f) : DecodesTo op (.ok (mk (fieldX op) (fieldY op))) :=
  decodesTo_ok (hwf _ _) ((he _ _).trans (x_y_n_of_top h hf))

theorem decode8_decodesTo (h : fieldTop op = 0x8#4) : DecodesTo op (decode8 op) :=
  decodesTo_ite (arm8_decodesTo h 0x0#4 .ldReg (fun _ _ => rfl) fun _ _ => rfl) <|
  decodesTo_ite (arm8_decodesTo h 0x1#4 .orReg (fun _ _ => rfl) fun _ _ => rfl) <|
  decodesTo_ite (arm8_decodesTo h 0x2#4 .andReg (fun _ _ => rfl) fun _ _ => rfl) <|
  decodesTo_ite (arm8_decodesTo h 0x3#4 .xorReg (fun _ _ => rfl) fun _ _ => rfl) <|
  decodesTo_ite (arm8_decodesTo h 0x4#4 .addReg (fun _ _ => rfl) fun _ _ => rfl) <|
  decodesTo_ite (arm8_decodesTo h 0x5#4 .sub (fun _ _ => rfl) fun _ _ => rfl) <|
  decodesTo_ite (arm8_decodesTo h 0x6#4 .shr (fun _ _ => rfl) fun _ _ => rfl) <|
  decodesTo_ite (arm8_decodesTo h 0x7#4 .subn (fun _ _ => rfl) fun _ _ => rfl) <|
  decodesTo_ite (arm8_decodesTo h 0xE#4 .shl (fun _ _ => rfl) fun _ _ => rfl) decodesTo_error

theorem decodeE_decodesTo (h : fieldTop op = 0xE#4) : DecodesTo op (decodeE op) :=
  decodesTo_ite (fun hkk => decodesTo_ok rfl (x_kk_of_top h hkk)) <|
  decodesTo_ite (fun hkk => decodesTo_ok rfl (x_kk_of_top h hkk)) decodesTo_error

/-- Group F, an arm: the low byte `f` is fixed. -/
theorem armF_decodesTo (h : fieldTop op = 0xF#4) (f : Byte) (mk : RegIx → Instr)
    (hwf : ∀ x, (mk x).wellFormed = true) (he : ∀ x, encode (mk x) = 0xF#4 ++ x ++ f) (hf : fieldKK op = f) :
    DecodesTo op (.ok (mk (fieldX op))) :=
  decodesTo_ok (hwf _) ((he _).trans (x_kk_of_top h hf))

theorem decodeF_decodesTo (h : fieldTop op = 0xF#4) : DecodesTo op (decodeF op) :=
  decodesTo_ite (armF_decodesTo h 0x07#8 .ldVxDt (fun _ => rfl) fun _ => rfl) <|
  decodesTo_ite (armF_decodesTo h 0x0A#8 .ldVxK (fun _ => rfl) fun _ => rfl) <|
  decodesTo_ite (armF_decodesTo h 0x15#8 .ldDtVx (fun _ => rfl) fun _ => rfl) <|
  decodesTo_ite (armF_decodesTo h 0x18#8 .ldStVx (fun _ => rfl) fun _ => rfl) <|
  decodesTo_ite (armF_decodesTo h 0x1E#8 .addIVx (fun _ => rfl) fun _ => rfl) <|
  decodesTo_ite (armF_decodesTo h 0x29#8 .ldFVx (fun _ => rfl) fun _ => rfl) <|
  decodesTo_ite (armF_decodesTo h 0x33#8 .ldBVx (fun _ => rfl) fun _ => rfl) <|
  decodesTo_ite (armF_decodesTo h 0x55#8 .stRegs (fun _ => rfl) fun _ => rfl) <|
  decodesTo_ite (armF_decodesTo h 0x65#8 .ldRegs (fun _ => rfl) fun _ => rfl) decodesTo_error

/-- The row count read from a 4-bit field fits it. -/
theorem drw_decodesTo (h : fieldTop op = 0xD#4) :
    DecodesTo op (.ok (.drw (fieldX op) (fieldY op) (fieldN op).toNat)) := by
  refine decodesTo_ok (decide_eq_true (fieldN op).isLt) ?_
  rw [encode, BitVec.ofNat_toNat, BitVec.setWidth_eq]
  exact x_y_n_of_top h rfl

end decodesTo

/-- Everything the decoder can do, top digit by top digit (R95). -/
theorem decode_decodesTo (op : Word) : DecodesTo op (decode op) := by
  rcases digit_cases (fieldTop op) with h | h | h | h | h | h | h | h | h | h | h | h | h | h | h | h
  · rw [decode_top0 h]; exact decode0_decodesTo
  · rw [decode_top1 h]; exact decodesTo_ok rfl (nnn_of_top h)
  · rw [decode_top2 h]; exact decodesTo_ok rfl (nnn_of_top h)
  · rw [decode_top3 h]; exact decodesTo_ok rfl (x_kk_of_top h rfl)
  · rw [decode_top4 h]; exact decodesTo_ok rfl (x_kk_of_top h rfl)
  · rw [decode_top5 h]; exact decodesTo_ite (fun hn => decodesTo_ok rfl (x_y_n_of_top h hn)) decodesTo_error
  · rw [decode_top6 h]; exact decodesTo_ok rfl (x_kk_of_top h rfl)
  · rw [decode_top7 h]; exact decodesTo_ok rfl (x_kk_of_top h rfl)
  · rw [decode_top8 h]; exact decode8_decodesTo h
  · rw [decode_top9 h]; exact decodesTo_ite (fun hn => decodesTo_ok rfl (x_y_n_of_top h hn)) decodesTo_error
  · rw [decode_topA h]; exact decodesTo_ok rfl (nnn_of_top h)
  · rw [decode_topB h]; exact decodesTo_ok rfl (nnn_of_top h)
  · rw [decode_topC h]; exact decodesTo_ok rfl (x_kk_of_top h rfl)
  · rw [decode_topD h]; exact drw_decodesTo h
  · rw [decode_topE h]; exact decodeE_decodesTo h
  · rw [decode_topF h]; exact decodeF_decodesTo h

theorem encode_of_decode {op : Word} {i : Instr} (h : decode op = .ok i) : i.wellFormed = true ∧ encode i = op := by
  rcases decode_decodesTo op with he | ⟨j, hj, hwf, hop⟩
  · exact absurd (h.symm.trans he) nofun
  · cases h.symm.trans hj
    exact ⟨hwf, hop⟩

/-- The decoder rejects an opcode by its own name, and for no other reason (R96). -/
theorem unassigned_of_decode_error {op : Word} {r : Reject} (h : decode op = .error r) :
    decode op = .error (.unassigned op) := by
  rcases decode_decodesTo op with he | ⟨j, hj, -, -⟩
  · exact he
  · exact absurd (h.symm.trans hj) nofun

/-! ## The rows of the table -/

theorem tableRow_statement (i : Instr) : Laws.TableRow.Statement i := by
  cases i with
  | cls => exact Laws.TableRow.cls
  | ret => exact Laws.TableRow.ret
  | jp nnn => exact Laws.TableRow.jp nnn
  | call nnn => exact Laws.TableRow.call nnn
  | seImm x kk => exact Laws.TableRow.seImm x kk
  | sneImm x kk => exact Laws.TableRow.sneImm x kk
  | seReg x y => exact Laws.TableRow.seReg x y
  | ldImm x kk => exact Laws.TableRow.ldImm x kk
  | addImm x kk => exact Laws.TableRow.addImm x kk
  | ldReg x y => exact Laws.TableRow.ldReg x y
  | orReg x y => exact Laws.TableRow.orReg x y
  | andReg x y => exact Laws.TableRow.andReg x y
  | xorReg x y => exact Laws.TableRow.xorReg x y
  | addReg x y => exact Laws.TableRow.addReg x y
  | sub x y => exact Laws.TableRow.sub x y
  | shr x y => exact Laws.TableRow.shr x y
  | subn x y => exact Laws.TableRow.subn x y
  | shl x y => exact Laws.TableRow.shl x y
  | sneReg x y => exact Laws.TableRow.sneReg x y
  | ldI nnn => exact Laws.TableRow.ldI nnn
  | jpV0 nnn => exact Laws.TableRow.jpV0 nnn
  | rnd x kk => exact Laws.TableRow.rnd x kk
  | drw x y n => exact Laws.TableRow.drw x y n
  | skp x => exact Laws.TableRow.skp x
  | sknp x => exact Laws.TableRow.sknp x
  | ldVxDt x => exact Laws.TableRow.ldVxDt x
  | ldVxK x => exact Laws.TableRow.ldVxK x
  | ldDtVx x => exact Laws.TableRow.ldDtVx x
  | ldStVx x => exact Laws.TableRow.ldStVx x
  | addIVx x => exact Laws.TableRow.addIVx x
  | ldFVx x => exact Laws.TableRow.ldFVx x
  | ldBVx x => exact Laws.TableRow.ldBVx x
  | stRegs x => exact Laws.TableRow.stRegs x
  | ldRegs x => exact Laws.TableRow.ldRegs x

/-- Every instruction's encoding stands on the row of its name. -/
theorem encode_matches_row (i : Instr) : ∃ r ∈ opcodeTable, r.mnemonic = i.mnemonic ∧ r.matches (encode i) = true := by
  obtain ⟨r, hr, hname, hbits⟩ := tableRow_statement i
  exact ⟨r, hr, hname, by simpa [OpcodeRow.matches] using hbits⟩

/-- An opcode with a row's fixed bits is an encoding (`opcodeTable_encodes`), and so decodes to an instruction of the row. -/
theorem decode_of_matches {op : Word} {r : OpcodeRow} (hr : r ∈ opcodeTable) (h : r.matches op = true) :
    ∃ i, decode op = .ok i ∧ i.mnemonic = r.mnemonic := by
  obtain ⟨i, hwf, hname, rfl⟩ := opcodeTable_encodes r hr op h
  exact ⟨i, decode_encode i hwf, hname⟩

theorem opcodeTable_mnemonic_injective :
    ∀ r ∈ opcodeTable, ∀ r' ∈ opcodeTable, r.mnemonic = r'.mnemonic → r = r' := by decide

/-! ## Which opcodes are unassigned (R96) -/

theorem ite_ok_eq_error {c : Prop} [Decidable c] {i : Instr} {d : Except Reject Instr} {r : Reject} :
    (if c then .ok i else d) = .error r ↔ ¬ c ∧ d = .error r := by
  by_cases h : c <;> simp [h]

theorem decode8_unassigned_iff (op : Word) :
    decode8 op = .error (.unassigned op) ↔ 8 ≤ (fieldN op).toNat ∧ fieldN op ≠ 0xE#4 := by
  simp only [decode8, ite_ok_eq_error]
  generalize fieldN op = n
  simp only [and_true]
  revert n
  decide

theorem decode_unassigned_iff (op : Word) : decode op = .error (.unassigned op) ↔
    (fieldTop op = 0x0#4 ∧ op ≠ 0x00E0#16 ∧ op ≠ 0x00EE#16) ∨
    (fieldTop op = 0x5#4 ∧ fieldN op ≠ 0#4) ∨
    (fieldTop op = 0x8#4 ∧ 8 ≤ (fieldN op).toNat ∧ fieldN op ≠ 0xE#4) ∨
    (fieldTop op = 0x9#4 ∧ fieldN op ≠ 0#4) ∨
    (fieldTop op = 0xE#4 ∧ fieldKK op ≠ 0x9E#8 ∧ fieldKK op ≠ 0xA1#8) ∨
    (fieldTop op = 0xF#4 ∧ fieldKK op ∉
      [0x07#8, 0x0A#8, 0x15#8, 0x18#8, 0x1E#8, 0x29#8, 0x33#8, 0x55#8, 0x65#8]) := by
  rcases digit_cases (fieldTop op) with h | h | h | h | h | h | h | h | h | h | h | h | h | h | h | h
  · simp [decode_top0 h, h, decode0, ite_ok_eq_error]
  · simp [decode_top1 h, h]
  · simp [decode_top2 h, h]
  · simp [decode_top3 h, h]
  · simp [decode_top4 h, h]
  · simp [decode_top5 h, h]
  · simp [decode_top6 h, h]
  · simp [decode_top7 h, h]
  · simp [decode_top8 h, h, decode8_unassigned_iff]
  · simp [decode_top9 h, h]
  · simp [decode_topA h, h]
  · simp [decode_topB h, h]
  · simp [decode_topC h, h]
  · simp [decode_topD h, h]
  · simp [decode_topE h, h, decodeE, ite_ok_eq_error]
  · simp [decode_topF h, h, decodeF, ite_ok_eq_error]

/-! ## The obligations -/

/-- Settles O2: instruction by instruction; the two bytes of an encoding are its opcode. -/
theorem decodeOfEncodeIsIdentity : Obligations.DecodeOfEncodeIsIdentity := by
  refine fun i h => ⟨decode_encode i h, fun rest => ?_⟩
  exact (decodeBytes_split (encode i) rest).trans (by rw [decode_encode i h]; rfl)

/-- Settles O3: the decoder answers an instruction only with the opcode's own fields. -/
theorem encodeOfDecodeIsIdentity : Obligations.EncodeOfDecodeIsIdentity := fun _ _ => encode_of_decode

/-- Settles O4: decoder and table agree through the encoder; two rows of one opcode have one name, and so are one. -/
theorem decodeAgreesWithDisjointMaskTable : Obligations.DecodeAgreesWithDisjointMaskTable := by
  refine ⟨rfl, fun op r hr h => decode_of_matches hr h, fun op i h => ?_, fun op r hr r' hr' h h' => ?_⟩
  · obtain ⟨-, rfl⟩ := encode_of_decode h
    exact encode_matches_row i
  · obtain ⟨i, hi, hname⟩ := decode_of_matches hr h
    obtain ⟨j, hj, hname'⟩ := decode_of_matches hr' h'
    cases hi.symm.trans hj
    exact opcodeTable_mnemonic_injective r hr r' hr' (hname.symm.trans hname')

/-- Settles O5: digit by digit, the branches that reject. -/
theorem unassignedOpcodesAreThoseOfTheGroups : Obligations.UnassignedOpcodesAreThoseOfTheGroups := decode_unassigned_iff

/-- Settles O1: fifteen words, each run through the decoder. -/
theorem wordsOfEachFamilyDecode : Obligations.WordsOfEachFamilyDecode := by
  unfold Obligations.WordsOfEachFamilyDecode
  decide

end Sys2Proof
end

section
/-! PROOFS. Support for O6 to O60: what each instruction leaves unchanged (spec/10_state.md R8, R20), and how it ends (R112,
R210). -/

namespace Sys2Proof.Machine

/-! ## Frames compose -/

theorem UnchangedBut.mono {l l' : List Part} {s t : State} (h : UnchangedBut l s t) (hl : l ⊆ l') : UnchangedBut l' s t :=
  fun p hp => h p fun hmem => hp (hl hmem)

theorem Part.same_trans {p : Part} {s t u : State} (h : p.same s t) (h' : p.same t u) : p.same s u := by
  cases p <;> exact h'.trans h

theorem UnchangedBut.trans {l l' : List Part} {s t u : State} (h : UnchangedBut l s t) (h' : UnchangedBut l' t u) :
    UnchangedBut (l ++ l') s u := fun p hp =>
  Part.same_trans (h p fun hmem => hp (List.mem_append_left _ hmem)) (h' p fun hmem => hp (List.mem_append_right _ hmem))

theorem UnchangedBut.returns {l : List Part} {s t : State} (h : UnchangedBut l s t) (r : Result) :
    UnchangedBut l s (t.returns r) := by
  simpa using h.trans (unchangedBut_returns t r)

/-! ## One write each -/

theorem unchangedBut_advance (s : State) : UnchangedBut [.pc] s s.advance := unchangedBut_pc s (s.pc + 2#16) s.result

theorem unchangedBut_skipIf (s : State) (c : Bool) (r : Result) : UnchangedBut [.pc] s ((s.skipIf c).returns r) := by
  rw [s.skipIf_eq]
  exact unchangedBut_pc s _ r

theorem unchangedBut_raise (s : State) (f : FaultCode) :
    UnchangedBut [.faults] s { s with result := .fault f, faults := s.faults ++ [f] } := by
  intro p hp
  cases p with
  | faults => exact absurd (List.mem_singleton_self _) hp
  | _ => rfl

theorem unchangedBut_mode (s : State) (m : Mode) (r : Result) : UnchangedBut [.mode] s ({ s with mode := m }.returns r) := by
  intro p hp
  cases p with
  | mode => exact absurd (List.mem_singleton_self _) hp
  | _ => rfl

theorem unchangedBut_rngPos (s : State) (n : Nat) : UnchangedBut [.rngPos] s { s with rngPos := n } := by
  intro p hp
  cases p with
  | rngPos => exact absurd (List.mem_singleton_self _) hp
  | _ => rfl

theorem unchangedBut_log (s : State) (l : List LogRecord) : UnchangedBut [.log] s { s with log := l } := by
  intro p hp
  cases p with
  | log => exact absurd (List.mem_singleton_self _) hp
  | _ => rfl

theorem unchangedBut_sp (s : State) (b : Byte) : UnchangedBut [.sp] s { s with sp := b } := by
  intro p hp
  cases p with
  | sp => exact absurd (List.mem_singleton_self _) hp
  | _ => rfl

theorem unchangedBut_stackSlot (s : State) (k : Nat) (hk : k < 16) (a : Word) :
    UnchangedBut [.stack (BitVec.ofNat 4 k)] s { s with stack := s.stack.set k a } := by
  intro p hp
  cases p with
  | stack j =>
    have hj : k ≠ j.toNat := by
      rintro rfl
      exact hp (by simp)
    exact Vector.getElem_set_ne hk j.isLt hj
  | _ => rfl

/-- A run of stored bytes changes the bytes it falls on, and no other (R60, R64). -/
theorem unchangedBut_writeBytes (s : State) (a : Nat) (bs : List Byte) :
    UnchangedBut (memParts a bs.length) s { s with mem := s.mem.writeBytes a bs } := by
  intro p hp
  cases p with
  | mem b =>
    refine Memory.read_writeBytes_outside _ _ _ _ fun k hk e => hp ?_
    refine List.mem_map.2 ⟨k, List.mem_range.2 hk, congrArg Part.mem (BitVec.eq_of_toNat_eq ?_)⟩
    rw [BitVec.toNat_ofNat, ← e]
    exact Nat.mod_eq_of_lt b.isLt
  | glyphs => exact Memory.writeBytes_glyphs _ _ _
  | _ => rfl

/-- A run of registers written from `V[0]` up changes those registers, and nothing else (R155). -/
theorem unchangedBut_setRegsFrom (s : State) (bs : List Byte) (h : bs.length ≤ 16) (r : Result) :
    UnchangedBut (regParts bs.length) s ((s.setRegsFrom 0 bs).returns r) := by
  refine unchangedBut_of_regs (congrArg (State.returns · r) (s.setRegsFrom_frame 0 bs)) fun k hk => ?_
  rw [State.getV_returns, State.getV_setRegsFrom _ _ _ (by omega), if_neg]
  rintro ⟨-, hlt⟩
  exact hk (List.mem_map.2 ⟨k.toNat, List.mem_range.2 (by omega), by simp⟩)

/-! ## The states the instructions with more than one write leave -/

theorem exec_ldVxK (x : RegIx) (s : State) :
    exec (.ldVxK x) s = .next ({ s with mode := .waitKey x }.returns .waiting) := rfl

theorem unchangedBut_rnd (s : State) (x : RegIx) (b : Byte) (r : Result) :
    UnchangedBut [.v x, .rngPos] s (({ s with rngPos := s.rngPos + 1 }.setV x b).returns r) :=
  ((unchangedBut_rngPos s _).trans (unchangedBut_setV _ x b r)).mono (by simp)

theorem unchangedBut_drw (s : State) (fb : Framebuffer) (f : Byte) (r : Result) :
    UnchangedBut (.v vf :: fbParts) s (({ s with fb := fb }.setFlag f).returns r) :=
  ((unchangedBut_fb s fb s.result).trans (unchangedBut_setV { s with fb := fb } vf f r)).mono (by simp)

/-- The state CALL leaves (R122). -/
theorem unchangedBut_push (s : State) (hsp : s.sp.toNat < 16) (ret target : Word) (r : Result) :
    UnchangedBut [.pc, .sp, .stack (BitVec.ofNat 4 s.sp.toNat)] s
      ({ s with stack := s.stack.set s.sp.toNat ret, sp := s.sp + 1#8, pc := target }.returns r) :=
  ((unchangedBut_stackSlot s _ hsp ret).trans ((unchangedBut_sp _ _).trans (unchangedBut_pc _ target r))).mono (by simp)

/-- The state RET leaves (R120). -/
theorem unchangedBut_pop (s : State) (target : Word) (r : Result) :
    UnchangedBut [.pc, .sp] s ({ s with sp := s.sp - 1#8, pc := target }.returns r) :=
  ((unchangedBut_sp s _).trans (unchangedBut_pc { s with sp := s.sp - 1#8 } target r)).mono (by simp)

/-! ## How RET, CALL and every instruction end (R112, R120, R122, R212, R213) -/

/-- Everything RET can do. -/
theorem execRet_cases (s : State) :
    (s.sp = 0#8 ∧ exec .ret s = raise .stackUnderflow s) ∨
    (0 < s.sp.toNat ∧ ∃ h : (s.sp - 1#8).toNat < 16,
      exec .ret s = finish { s with sp := s.sp - 1#8, pc := s.stack[(s.sp - 1#8).toNat] }) ∨
    (16 < s.sp.toNat ∧ exec .ret s = .fault .stackPointerRange) := by
  rcases pop_cases s with ⟨hsp, hpop⟩ | ⟨hsp, hlt, hpop⟩ | ⟨hsp, hpop⟩
  · exact .inl ⟨hsp, by simp [exec, execRet, hpop, stackStop]⟩
  · exact .inr (.inl ⟨hsp, hlt, by simp [exec, execRet, hpop]⟩)
  · exact .inr (.inr ⟨hsp, by simp [exec, execRet, hpop, stackStop]⟩)

/-- Everything CALL can do. -/
theorem execCall_cases (nnn : Imm12) (s : State) :
    (∃ _ : s.sp.toNat < 16, exec (.call nnn) s =
      finish { s with stack := s.stack.set s.sp.toNat s.pc, sp := s.sp + 1#8, pc := immWord nnn }) ∨
    (s.sp = 16#8 ∧ exec (.call nnn) s = raise .stackOverflow s) ∨
    (16 < s.sp.toNat ∧ exec (.call nnn) s = .fault .stackPointerRange) := by
  rcases push_cases s.pc s with ⟨hsp, hpush⟩ | ⟨hsp, hpush⟩ | ⟨hsp, hpush⟩
  · exact .inl ⟨hsp, by simp [exec, execCall, hpush]⟩
  · exact .inr (.inl ⟨hsp, by simp [exec, execCall, hpush, stackStop]⟩)
  · exact .inr (.inr ⟨hsp, by simp [exec, execCall, hpush, stackStop]⟩)

/-- The instructions that can end otherwise than by completing are RET, CALL and the key wait. -/
theorem exec_eq_finish {i : Instr} (hret : i ≠ .ret) (hcall : ∀ nnn, i ≠ .call nnn) (hwait : ∀ x, i ≠ .ldVxK x)
    (s : State) : ∃ u, exec i s = finish u := by
  cases i with
  | ret => exact absurd rfl hret
  | call nnn => exact absurd rfl (hcall nnn)
  | ldVxK x => exact absurd rfl (hwait x)
  | _ => exact ⟨_, rfl⟩

/-- Every way an instruction can end: it completes; it waits; it raises one of the two stack faults; or SP was out of range. -/
theorem exec_cases (i : Instr) (s : State) :
    ((∃ u, exec i s = finish u) ∧ (∀ x, i ≠ .ldVxK x) ∧ (i = .ret → s.sp ≠ 0#8) ∧ (∀ nnn, i = .call nnn → s.sp ≠ 16#8)) ∨
    (∃ x, i = .ldVxK x ∧ exec i s = .next ({ s with mode := .waitKey x }.returns .waiting)) ∨
    (i = .ret ∧ s.sp = 0#8 ∧ exec i s = raise .stackUnderflow s) ∨
    ((∃ nnn, i = .call nnn) ∧ s.sp = 16#8 ∧ exec i s = raise .stackOverflow s) ∨
    (16 < s.sp.toNat ∧ exec i s = .fault .stackPointerRange) := by
  by_cases hret : i = .ret
  · subst hret
    rcases execRet_cases s with ⟨hsp, h⟩ | ⟨hsp, _, h⟩ | ⟨hsp, h⟩
    · exact .inr (.inr (.inl ⟨rfl, hsp, h⟩))
    · exact .inl ⟨⟨_, h⟩, nofun, fun _ e => by simp [e] at hsp, nofun⟩
    · exact .inr (.inr (.inr (.inr ⟨hsp, h⟩)))
  by_cases hcall : ∃ nnn, i = .call nnn
  · obtain ⟨nnn, rfl⟩ := hcall
    rcases execCall_cases nnn s with ⟨hsp, h⟩ | ⟨hsp, h⟩ | ⟨hsp, h⟩
    · exact .inl ⟨⟨_, h⟩, nofun, nofun, fun _ _ e => by simp [e] at hsp⟩
    · exact .inr (.inr (.inr (.inl ⟨⟨nnn, rfl⟩, hsp, h⟩)))
    · exact .inr (.inr (.inr (.inr ⟨hsp, h⟩)))
  by_cases hwait : ∃ x, i = .ldVxK x
  · obtain ⟨x, rfl⟩ := hwait
    exact .inr (.inl ⟨x, rfl, rfl⟩)
  rw [not_exists] at hcall hwait
  exact .inl ⟨exec_eq_finish hret hcall hwait s, hwait, fun e => absurd e hret, fun nnn e => absurd e (hcall nnn)⟩

/-! ## TICK on an unassigned opcode (R113) -/

theorem tick_of_rejected {s : State} {r : Reject} (hm : s.mode = .run) (hd : decode s.fetch = .error r) :
    tick s = nopUnassigned s.fetch s := by
  simp [tick, hm, tickRun, hd]

theorem unchangedBut_nop (s : State) (l : List LogRecord) (r : Result) :
    UnchangedBut [.pc, .log] s ({ s.advance with log := l }.returns r) :=
  ((unchangedBut_advance s).trans (unchangedBut_log s.advance l)).returns r

end Sys2Proof.Machine
end

section
/-! PROOFS. O6 to O14, O16, O21 (spec/20_memory.md R63, spec/40_fetch_execute_cycle.md R110 to R116, spec/41_control_flow.md R120,
R122): the fetch, the results of a TICK, the call stack. -/

namespace Sys2Proof.Machine

/-! ## The fetch (R63) -/

theorem State.fetch_toNat (s : State) :
    s.fetch.toNat = 256 * (s.mem.read s.pc.toNat).toNat + (s.mem.read (s.pc.toNat + 1)).toNat := by
  have hlo := (s.mem.read (s.pc.toNat + 1)).isLt
  rw [State.fetch, BitVec.toNat_append, ← Nat.shiftLeft_add_eq_or_of_lt hlo, Nat.shiftLeft_eq]
  omega

/-! ## The next transaction (R72) -/

theorem step_of_empty {s : State} (h : s.inbox = []) : step s = transact .tick s := by
  simp [step, nextTransaction, h, transact]

theorem step_of_queued {s : State} {tr : Transaction} {rest : List Transaction} (h : s.inbox = tr :: rest) :
    step s = transact tr { s with inbox := rest } := by
  simp [step, nextTransaction, h]

/-! ## A TICK that takes a stack fault (R212, R213, R216) -/

/-- The advanced state, with the fault returned. -/
theorem unchangedBut_advance_raise (s : State) (f : FaultCode) :
    UnchangedBut [.pc, .faults] s { s.advance with result := .fault f, faults := s.faults ++ [f] } :=
  (unchangedBut_advance s).trans (unchangedBut_raise s.advance f)

theorem exec_ret_underflow {s : State} (h : s.sp = 0#8) : exec .ret s = raise .stackUnderflow s := by
  rcases execRet_cases s with ⟨-, he⟩ | ⟨hpos, -⟩ | ⟨hgt, -⟩
  · exact he
  · simp [h] at hpos
  · simp [h] at hgt

theorem exec_call_overflow {s : State} (nnn : Imm12) (h : s.sp = 16#8) :
    exec (.call nnn) s = raise .stackOverflow s := by
  rcases execCall_cases nnn s with ⟨hlt, -⟩ | ⟨-, he⟩ | ⟨hgt, -⟩
  · simp [h] at hlt
  · exact he
  · simp [h] at hgt

/-- Every way a TICK can end (R112): it found the core cancelled or waiting; the opcode was unassigned; or the instruction
waits, faults or completes. -/
theorem tick_result {s t : State} (h : tick s = .next t) :
    (s.mode = .cancelled ∧ t = s.returns .cancelled) ∨
    (∃ x, s.mode = .waitKey x ∧ t = s.returns .waiting) ∨
    (s.mode = .run ∧ decode s.fetch = .error (.unassigned s.fetch) ∧ t.result = .nop s.fetch) ∨
    (s.mode = .run ∧ ∃ x, decode s.fetch = .ok (.ldVxK x) ∧ t.result = .waiting) ∨
    (s.mode = .run ∧ decode s.fetch = .ok .ret ∧ s.sp = 0#8 ∧
      t = { s.advance with result := .fault .stackUnderflow, faults := s.faults ++ [.stackUnderflow] }) ∨
    (s.mode = .run ∧ (∃ nnn, decode s.fetch = .ok (.call nnn)) ∧ s.sp = 16#8 ∧
      t = { s.advance with result := .fault .stackOverflow, faults := s.faults ++ [.stackOverflow] }) ∨
    (s.mode = .run ∧ (∃ i, decode s.fetch = .ok i ∧ (∀ x, i ≠ .ldVxK x) ∧ (i = .ret → s.sp ≠ 0#8) ∧
      (∀ nnn, i = .call nnn → s.sp ≠ 16#8)) ∧ t.result = .ok) := by
  rcases tick_cases s with ⟨i, hm, hd, he⟩ | ⟨hm, ⟨r, hd⟩, he⟩ | ⟨x, hm, he⟩ | ⟨hm, he⟩
  · rw [h] at he
    rcases exec_cases i s.advance with ⟨⟨u, hu⟩, hok⟩ | ⟨x, rfl, hu⟩ | ⟨rfl, hsp, hu⟩ | ⟨⟨nnn, rfl⟩, hsp, hu⟩ | ⟨-, hu⟩
    · cases he.trans hu
      exact .inr (.inr (.inr (.inr (.inr (.inr ⟨hm, ⟨i, hd, hok⟩, rfl⟩)))))
    · cases he.trans hu
      exact .inr (.inr (.inr (.inl ⟨hm, x, hd, rfl⟩)))
    · cases he.trans hu
      exact .inr (.inr (.inr (.inr (.inl ⟨hm, hd, hsp, rfl⟩))))
    · cases he.trans hu
      exact .inr (.inr (.inr (.inr (.inr (.inl ⟨hm, ⟨nnn, hd⟩, hsp, rfl⟩)))))
    · exact absurd (he.trans hu) nofun
  · cases h.symm.trans he
    exact .inr (.inr (.inl ⟨hm, unassigned_of_decode_error hd, rfl⟩))
  · cases h.symm.trans he
    exact .inr (.inl ⟨x, hm, rfl⟩)
  · cases h.symm.trans he
    exact .inl ⟨hm, rfl⟩

/-! ## CALL and RET (R120, R122) -/

theorem exec_ret_of_pos {s : State} (hpos : 0 < s.sp.toNat) (hle : s.sp.toNat ≤ 16) : ∃ h : (s.sp - 1#8).toNat < 16,
    exec .ret s = finish { s with sp := s.sp - 1#8, pc := s.stack[(s.sp - 1#8).toNat] } := by
  rcases execRet_cases s with ⟨hsp, -⟩ | ⟨-, h⟩ | ⟨hgt, -⟩
  · simp [hsp] at hpos
  · exact h
  · omega

theorem exec_call_of_lt {s : State} (nnn : Imm12) (hlt : s.sp.toNat < 16) : exec (.call nnn) s =
    finish { s with stack := s.stack.set s.sp.toNat s.pc, sp := s.sp + 1#8, pc := immWord nnn } := by
  rcases execCall_cases nnn s with ⟨_, h⟩ | ⟨hsp, -⟩ | ⟨hgt, -⟩
  · exact h
  · simp [hsp] at hlt
  · omega

/-- RET on the state a push left takes the pushed address back. -/
theorem exec_ret_after_push (s : State) (hlt : s.sp.toNat < 16) (a target : Word) (r : Result) :
    exec .ret ({ s with stack := s.stack.set s.sp.toNat a, sp := s.sp + 1#8, pc := target }.returns r) =
      .next ({ s with stack := s.stack.set s.sp.toNat a, pc := a }.returns .ok) := by
  have hsucc := sp_succ_toNat s hlt
  obtain ⟨h, he⟩ := exec_ret_of_pos
    (s := { s with stack := s.stack.set s.sp.toNat a, sp := s.sp + 1#8, pc := target }.returns r)
    (by rw [State.returns_sp, hsucc]; omega) (by rw [State.returns_sp, hsucc]; omega)
  rw [he, finish_eq]
  simp [State.returns]

/-! ## The obligations -/

/-- Settles O6: the fetch in numbers; the addresses are reduced by each read. -/
theorem fetchIsBigEndianAndWraps : Obligations.FetchIsBigEndianAndWraps := State.fetch_toNat

/-- Settles O7: a step takes the first transaction of the queue; a TICK does not look at the queue. -/
theorem stepRunsDecodedInstruction : Obligations.StepRunsDecodedInstruction := by
  refine ⟨fun s => step_of_empty, fun s tr rest => step_of_queued, fun s i hm hd =>
    ⟨tick_of_decoded hm hd, fun h => ?_, fun rest h => ?_⟩⟩
  · exact (step_of_empty h).trans (tick_of_decoded hm hd)
  · exact (step_of_queued h).trans (tick_of_decoded (s := { s with inbox := rest }) hm hd)

/-- Settles O8: PC's advance and one log record. -/
theorem unassignedOpcodeIsLoggedNop : Obligations.UnassignedOpcodeIsLoggedNop := fun s hm hd =>
  ⟨_, tick_of_rejected hm hd, rfl, rfl, rfl, unchangedBut_nop s _ _⟩

/-- Settles O9: outside RUN a TICK writes only what it returns. -/
theorem tickOutsideRunChangesNothing : Obligations.TickOutsideRunChangesNothing := fun s =>
  ⟨fun x hm => ⟨s.returns .waiting, by simp [transact, tick, hm], rfl, unchangedBut_returns s _⟩,
    fun hm => ⟨s.returns .cancelled, by simp [transact, tick, hm], rfl, unchangedBut_returns s _⟩⟩

/-- Settles O10: the ends of a TICK, each with its result. -/
theorem tickReturnsTheListedResult : Obligations.TickReturnsTheListedResult := by
  intro s t h
  rcases tick_result h with ⟨hm, rfl⟩ | ⟨x, hm, rfl⟩ | hnop | hwait | ⟨hm, hd, hsp, rfl⟩ | ⟨hm, hd, hsp, rfl⟩ | hok
  · exact .inl ⟨hm, rfl⟩
  · exact .inr (.inl ⟨x, hm, rfl⟩)
  · exact .inr (.inr (.inl hnop))
  · exact .inr (.inr (.inr (.inl hwait)))
  · exact .inr (.inr (.inr (.inr (.inl ⟨hm, hd, hsp, rfl⟩))))
  · exact .inr (.inr (.inr (.inr (.inr (.inl ⟨hm, hd, hsp, rfl⟩)))))
  · exact .inr (.inr (.inr (.inr (.inr (.inr hok)))))

/-- Settles O11: of the ends of a TICK only the two stack faults return a fault. -/
theorem faultingTickOnlyAdvancesPc : Obligations.FaultingTickOnlyAdvancesPc := by
  intro s t f h hf
  rcases tick_result h with ⟨-, rfl⟩ | ⟨x, -, rfl⟩ | ⟨-, -, hr⟩ | ⟨-, x, -, hr⟩ | ⟨hm, -, -, rfl⟩ | ⟨hm, -, -, rfl⟩ |
    ⟨-, -, hr⟩
  · exact absurd hf nofun
  · exact absurd hf nofun
  · exact absurd (hr.symm.trans hf) nofun
  · exact absurd (hr.symm.trans hf) nofun
  · cases hf
    exact ⟨hm, .inr rfl, rfl, rfl, unchangedBut_advance_raise s _⟩
  · cases hf
    exact ⟨hm, .inl rfl, rfl, rfl, unchangedBut_advance_raise s _⟩
  · exact absurd (hr.symm.trans hf) nofun

/-- Settles O12: SP falls to the slot that is read. -/
theorem returnPopsNewestAddress : Obligations.ReturnPopsNewestAddress := by
  intro s hpos hle
  obtain ⟨hlt, h⟩ := exec_ret_of_pos hpos hle
  refine ⟨_, h, rfl, ?_, Vector.getElem?_eq_getElem hlt, unchangedBut_pop s _ .ok⟩
  show (s.sp - 1#8).toNat + 1 = s.sp.toNat
  rw [sp_pred_toNat s hpos]
  omega

/-- Settles O13: the instruction raises its fault on the advanced state. -/
theorem stackFaultsChangeNothingButPc : Obligations.StackFaultsChangeNothingButPc := fun s hm =>
  ⟨fun hd hsp => ⟨_, (tick_of_decoded hm hd).trans (exec_ret_underflow (s := s.advance) hsp), rfl, hsp, rfl, rfl,
      unchangedBut_advance_raise s _⟩,
    fun nnn hd hsp => ⟨_, (tick_of_decoded hm hd).trans (exec_call_overflow (s := s.advance) nnn hsp), rfl, hsp, rfl, rfl,
      unchangedBut_advance_raise s _⟩⟩

/-- Settles O14: the slot at SP receives PC. -/
theorem callPushesNextAddressAndJumps : Obligations.CallPushesNextAddressAndJumps := fun s nnn hlt =>
  ⟨_, exec_call_of_lt nnn hlt, rfl, immWord_toNat nnn, sp_succ_toNat s hlt, by simp [State.returns],
    unchangedBut_push s hlt s.pc (immWord nnn) .ok⟩

/-- Settles O16: RET takes back the address CALL pushed; the slot keeps it. -/
theorem callThenReturnRestoresPc : Obligations.CallThenReturnRestoresPc := fun s nnn hlt =>
  ⟨_, _, exec_call_of_lt nnn hlt, exec_ret_after_push s hlt s.pc (immWord nnn) .ok, rfl, rfl, rfl,
    (unchangedBut_stackSlot s _ hlt s.pc).returns .ok⟩

/-- Settles O21: the target of the jump is the PC before the TICK. -/
theorem jumpToSelfChangesNothing : Obligations.JumpToSelfChangesNothing := by
  rintro s hin ⟨hm, nnn, hd, hpc⟩
  have hstep : step s = .next ({ s with pc := immWord nnn }.returns .ok) :=
    (step_of_empty hin).trans (tick_of_decoded hm hd)
  rw [← hpc] at hstep
  exact ⟨_, hstep, rfl, unchangedBut_returns s .ok⟩

end Sys2Proof.Machine
end

section
/-! PROOFS. O42, O43, O45, O47, O48, O50 to O54 (spec/45_keyboard.md, spec/47_host_transactions.md,
spec/70_reset_and_hazards.md): keys, timers, LOAD, CANCEL, the raw-key lookup and RESET. -/

namespace Sys2Proof.Machine

/-! ## Key skips (R170, R171) -/

/-- A key is held when the value is its index and its bit is set; no value above 15 is (D8). -/
theorem State.keyHeld_iff (s : State) (v : Byte) :
    s.keyHeld v = true ↔ ∃ k : Key, s.keys.getLsbD k.toNat = true ∧ v.toNat = k.toNat := by
  constructor
  · intro h
    have hv : v.toNat < 16 := BitVec.lt_of_getLsbD h
    have hk : (BitVec.ofNat 4 v.toNat).toNat = v.toNat := Nat.mod_eq_of_lt hv
    exact ⟨BitVec.ofNat 4 v.toNat, by rw [hk]; exact h, hk.symm⟩
  · rintro ⟨k, hk, hv⟩
    rw [State.keyHeld, hv]
    exact hk

theorem State.skipIf_true_pc_toNat (s : State) {c : Bool} (h : c = true) :
    (s.skipIf c).pc.toNat = (s.pc.toNat + 2) % 65536 := by
  rw [State.skipIf_pc, if_pos h, BitVec.toNat_add]
  rfl

theorem State.skipIf_false_pc (s : State) {c : Bool} (h : ¬ c = true) : (s.skipIf c).pc = s.pc := by
  rw [State.skipIf_pc, if_neg h]

/-! ## KEY_DOWN, CANCEL (R192, R195) -/

/-- Everything a mapped key-down can do. -/
theorem keyDown_cases (k : Key) (s : State) :
    (∃ x, s.mode = .waitKey x ∧ transact (.keyDown (some k)) s =
      .next (({ s with keys := pressKey s.keys k, mode := .run }.setV x (keyByte k)).returns .nothing)) ∨
    ((∀ x, s.mode ≠ .waitKey x) ∧ transact (.keyDown (some k)) s =
      .next ({ s with keys := pressKey s.keys k }.returns .nothing)) := by
  rcases completeWait_cases k { s with keys := pressKey s.keys k } with ⟨x, hm, h⟩ | ⟨hm, h⟩
  · exact .inl ⟨x, hm, by simp [transact, doKeyDown, h]⟩
  · exact .inr ⟨hm, by simp [transact, doKeyDown, h]⟩

theorem unchangedBut_completeWait (s : State) (keys : BitVec 16) (x : RegIx) (b : Byte) (r : Result) :
    UnchangedBut [.keys, .mode, .v x] s (({ s with keys := keys, mode := .run }.setV x b).returns r) :=
  ((unchangedBut_keys s keys s.result).trans ((unchangedBut_mode { s with keys := keys } .run s.result).trans
    (unchangedBut_setV { s with keys := keys, mode := .run } x b r))).mono (by simp)

/-- Everything CANCEL can do. -/
theorem cancel_cases (s : State) :
    (∃ x, s.mode = .waitKey x ∧ transact .cancel s = raise .waitCancelled { s with mode := .cancelled }) ∨
    ((∀ x, s.mode ≠ .waitKey x) ∧ transact .cancel s = finish s) := by
  cases hm : s.mode with
  | waitKey x => exact .inl ⟨x, rfl, by simp [transact, doCancel, hm]⟩
  | run => exact .inr ⟨nofun, by simp [transact, doCancel, hm]⟩
  | cancelled => exact .inr ⟨nofun, by simp [transact, doCancel, hm]⟩

theorem unchangedBut_cancel (s : State) (m : Mode) (f : FaultCode) :
    UnchangedBut [.mode, .faults] s { s with mode := m, result := .fault f, faults := s.faults ++ [f] } :=
  (unchangedBut_mode s m s.result).trans (unchangedBut_raise { s with mode := m } f)

/-! ## TIMER_DEC (R194) -/

theorem countDown_toNat (b : Byte) : (countDown b).toNat = b.toNat - 1 := by
  unfold countDown
  split
  · next h => simp [h]
  · next h =>
    have hpos : b.toNat ≠ 0 := fun e => h (BitVec.eq_of_toNat_eq e)
    rw [byte_sub_toNat, show (1#8).toNat = 1 from rfl]
    omega

theorem unchangedBut_timers (s : State) (dt st : Byte) (r : Result) :
    UnchangedBut [.dt, .st] s ({ s with dt := dt, st := st }.returns r) :=
  (unchangedBut_dt s dt s.result).trans (unchangedBut_st { s with dt := dt } st r)

/-! ## LOAD (R191) -/

theorem load_of_fits {bytes : List Byte} (h : bytes.length ≤ 3584) (s : State) :
    transact (.load bytes) s = finish { s with mem := s.mem.writeBytes 0x200 bytes } := by
  rcases doLoad_cases bytes s with ⟨-, he⟩ | ⟨hlong, -⟩
  · exact he
  · omega

/-- The image stands in memory byte for byte (R64). -/
theorem read_image (m : Memory) {bytes : List Byte} (h : bytes.length ≤ 3584) {k : Nat} (hk : k < bytes.length) :
    (m.writeBytes 0x200 bytes).read (0x200 + k) = bytes[k] :=
  m.read_writeBytes_inside _ _ _ (by omega) hk

/-! ## The raw-key lookup (R198) -/

/-- The lookup is the library's search for the first index, counted from `k`. -/
theorem findKey_eq {Raw : Type} [DecidableEq Raw] (raw : Raw) (k : Nat) (l : List Raw) :
    findKey raw k l = (l.findIdx? (· = raw)).map fun j => BitVec.ofNat 4 (k + j) := by
  induction l generalizing k with
  | nil => rfl
  | cons r rest ih =>
    rw [findKey, List.findIdx?_cons, ih]
    by_cases h : r = raw
    · simp [h]
    · simp [h, Function.comp_def, Nat.add_assoc, Nat.add_comm 1]

theorem mapRawKey_eq {Raw : Type} [DecidableEq Raw] (keymap : Vector Raw 16) (raw : Raw) :
    mapRawKey keymap raw = (keymap.toList.findIdx? (· = raw)).map (BitVec.ofNat 4) := by
  rw [mapRawKey, findKey_eq]
  simp

theorem mapRawKey_eq_some_iff {Raw : Type} [DecidableEq Raw] (keymap : Vector Raw 16) (raw : Raw) (k : Key) :
    mapRawKey keymap raw = some k ↔ keymap[k.toNat]? = some raw ∧ ∀ j < k.toNat, keymap[j]? ≠ some raw := by
  have hfind : mapRawKey keymap raw = some k ↔ keymap.toList.findIdx? (· = raw) = some k.toNat := by
    rw [mapRawKey_eq, Option.map_eq_some_iff]
    constructor
    · rintro ⟨j, hj, rfl⟩
      obtain ⟨hlt, -⟩ := List.findIdx?_eq_some_iff_getElem.1 hj
      rw [hj, BitVec.toNat_ofNat, Nat.mod_eq_of_lt (by simpa using hlt)]
    · exact fun h => ⟨k.toNat, h, by simp⟩
  have hk : k.toNat < 16 := k.isLt
  simp only [hfind, List.findIdx?_eq_some_iff_getElem, Vector.getElem_toList, Vector.length_toList, hk, exists_true_left,
    decide_eq_true_eq, Vector.getElem?_eq_getElem hk, Option.some.injEq]
  refine and_congr_right fun _ => forall₂_congr fun j hj => ?_
  rw [Vector.getElem?_eq_getElem (hj.trans hk), ne_eq, Option.some.injEq]

theorem mapRawKey_eq_none_iff {Raw : Type} [DecidableEq Raw] (keymap : Vector Raw 16) (raw : Raw) :
    mapRawKey keymap raw = none ↔ ∀ j : Nat, keymap[j]? ≠ some raw := by
  rw [mapRawKey_eq, Option.map_eq_none_iff, List.findIdx?_eq_none_iff, ← not_iff_not]
  simp [List.mem_iff_getElem?]

/-! ## Memory and registers after reset (R36, R38) -/

theorem resetByte_of_glyph (g : GlyphTable) {d r : Nat} (hd : d < 16) (hr : r < 5) :
    resetByte g (d * 5 + r) = (g[d])[r] := by
  have hdiv : (d * 5 + r) / 5 = d := by omega
  have hmod : (d * 5 + r) % 5 = r := by omega
  rw [resetByte, dif_pos (by omega)]
  simp only [hdiv, hmod]

theorem resetByte_of_ge (g : GlyphTable) {a : Nat} (h : 80 ≤ a) : resetByte g a = 0#8 := dif_neg (by omega)

theorem read_resetWith_glyph (g : GlyphTable) {d r : Nat} (hd : d < 16) (hr : r < 5) :
    (State.resetWith g).mem.read (d * 5 + r) = (g[d])[r] := by
  rw [State.resetWith, Memory.read_reset, Nat.mod_eq_of_lt (by omega), resetByte_of_glyph g hd hr]

theorem read_resetWith_zero (g : GlyphTable) {a : Nat} (h : 80 ≤ a) (ha : a < 4096) :
    (State.resetWith g).mem.read a = 0#8 := by
  rw [State.resetWith, Memory.read_reset, Nat.mod_eq_of_lt ha, resetByte_of_ge g h]

theorem getV_resetWith (g : GlyphTable) (k : RegIx) : (State.resetWith g).getV k = 0#8 := by
  simp [State.resetWith, State.getV]

/-! ## The obligations -/

/-- Settles O42: the two skips are on one condition and its negation. -/
theorem keySkipsTestTheLatch : Obligations.KeySkipsTestTheLatch := by
  refine fun s x => ⟨decode_skp x, decode_sknp x, fun down hdown => ?_⟩
  rw [← s.keyHeld_iff] at hdown
  refine ⟨⟨_, finish_eq _, rfl, unchangedBut_skipIf s _ .ok, fun h => ?_, fun h => ?_⟩,
    ⟨_, finish_eq _, rfl, unchangedBut_skipIf s _ .ok, fun h => ?_, fun h => ?_⟩⟩
  · exact s.skipIf_true_pc_toNat (hdown.1 h)
  · exact s.skipIf_false_pc (mt hdown.2 h)
  · exact s.skipIf_false_pc (by simp [hdown.1 h])
  · exact s.skipIf_true_pc_toNat (by simpa using mt hdown.2 h)

/-- Settles O43: one write, of MODE. -/
theorem keyWaitSuspendsTheCore : Obligations.KeyWaitSuspendsTheCore := fun s x =>
  ⟨decode_ldVxK x, _, exec_ldVxK x s, rfl, rfl, unchangedBut_mode s (.waitKey x) .waiting⟩

/-- Settles O45: the key's bit in every mode, and in WAIT_KEY the register and MODE. -/
theorem keyDownLatchesAndCompletesWait : Obligations.KeyDownLatchesAndCompletesWait := by
  refine fun s => ⟨⟨_, rfl, rfl, unchangedBut_returns s .nothing⟩, fun k => ?_⟩
  rcases keyDown_cases k s with ⟨x, hm, h⟩ | ⟨hm, h⟩
  · refine ⟨_, h, rfl, getLsbD_pressKey s.keys k, fun x' hx' => ?_, fun hne => absurd hm (hne x)⟩
    cases hm.symm.trans hx'
    refine ⟨rfl, ?_, unchangedBut_completeWait s _ x _ .nothing⟩
    rw [State.getV_returns, State.getV_setV_self]
    exact BitVec.toNat_setWidth_of_le (by decide)
  · exact ⟨_, h, rfl, getLsbD_pressKey s.keys k, fun x hx => absurd hx (hm x), fun _ => unchangedBut_keys s _ .nothing⟩

/-- Settles O47: one count down for each timer. -/
theorem timerDecStopsAtZero : Obligations.TimerDecStopsAtZero := fun s =>
  ⟨_, rfl, rfl, countDown_toNat s.dt, countDown_toNat s.st, unchangedBut_timers s _ _ .nothing⟩

/-- Settles O48: a pending wait, or none. -/
theorem cancelEndsOnlyAPendingWait : Obligations.CancelEndsOnlyAPendingWait := by
  intro s
  rcases cancel_cases s with ⟨x, hm, h⟩ | ⟨hm, h⟩
  · exact ⟨_, h, fun _ _ => ⟨rfl, rfl, rfl, unchangedBut_cancel s .cancelled .waitCancelled⟩, fun hne => absurd hm (hne x)⟩
  · exact ⟨_, h, fun x hx => absurd hx (hm x), fun _ => ⟨rfl, unchangedBut_returns s .ok⟩⟩

/-- Settles O50: an image that fits, or one that does not. -/
theorem loadCopiesImageOrRefusesIt : Obligations.LoadCopiesImageOrRefusesIt := by
  intro s bytes
  rcases doLoad_cases bytes s with ⟨hfits, h⟩ | ⟨hlong, h⟩
  · exact ⟨_, h, fun _ => ⟨rfl, fun k hk => read_image s.mem hfits hk, (unchangedBut_writeBytes s 0x200 bytes).returns .ok⟩,
      fun hlong => absurd hfits (by omega)⟩
  · exact ⟨_, h, fun hfits => absurd hfits (by omega), fun _ => ⟨rfl, rfl, unchangedBut_raise s .capacityExceeded⟩⟩

/-- Settles O51: the search for the first index, whose answer is below 16. -/
theorem rawKeyMapsToLeastIndex : Obligations.RawKeyMapsToLeastIndex := fun _ _ keymap raw =>
  ⟨mapRawKey_eq_some_iff keymap raw, mapRawKey_eq_none_iff keymap raw⟩

/-- Settles O52: what RESET leaves is the state after reset over the same glyph table. -/
theorem resetRestoresEveryPiece : Obligations.ResetRestoresEveryPiece := by
  refine fun s => ⟨_, rfl, rfl, getV_resetWith s.mem.glyphs, rfl, rfl, rfl, rfl, rfl, fun k hk => ?_, fun d r hd hr => ?_,
    fun a h ha => read_resetWith_zero _ h ha, Framebuffer.get_blank, rfl, rfl, rfl, rfl, rfl, rfl, rfl⟩
  · exact (Vector.getElem?_eq_getElem hk).trans (congrArg some (Vector.getElem_replicate hk))
  · refine Eq.trans ?_ (congrArg some (read_resetWith_glyph s.mem.glyphs hd hr).symm)
    simp [hd, hr]

/-- Settles O53: the image stands at the reset value of PC. -/
theorem resetThenLoadBootsTheImage : Obligations.ResetThenLoadBootsTheImage := by
  intro s hi lo rest hlen
  have hfits : (hi :: lo :: rest).length ≤ 3584 := by
    simp only [List.length_cons]
    omega
  refine ⟨_, _, rfl, load_of_fits hfits _, rfl, rfl, rfl, ?_, fun k hk => read_image _ hfits hk⟩
  rw [State.fetch_toNat]
  exact congrArg₂ (fun a b => 256 * a.toNat + b.toNat) (read_image _ hfits (k := 0) (by simp))
    (read_image _ hfits (k := 1) (by simp))

/-- Settles O54: RESET's values, at reset. -/
theorem resetStateHoldsTheStatedValues : Obligations.ResetStateHoldsTheStatedValues :=
  ⟨getV_resetWith conventionalFont, rfl, rfl, rfl, rfl, rfl, Framebuffer.get_blank, rfl, rfl, rfl,
    fun _ h ha => read_resetWith_zero _ h ha⟩

end Sys2Proof.Machine
end

section
/-! PROOFS. O30, O33 to O38 (spec/42_alu.md R143, spec/43_index_memory.md R152 to R156, spec/20_memory.md R75): the random byte, the
glyph pointer, and the stores and loads at I. -/

namespace Sys2Proof.Machine

/-! ## Bytes (R152, R153) -/

/-- Five times a byte fits in 16 bits. -/
theorem glyphAddress_toNat (v : Byte) : (glyphAddress v).toNat = v.toNat * 5 := by
  rw [glyphAddress, glyphHeight, BitVec.toNat_ofNat]
  omega

/-- The three digits of `V[x]`, where `Fx33` stores them (R153). -/
theorem read_writeBytes_bcdDigits (m : Memory) (a : Nat) (v : Byte) :
    ((m.writeBytes a (bcdDigits v)).read a).toNat = v.toNat / 100 ∧
    ((m.writeBytes a (bcdDigits v)).read (a + 1)).toNat = v.toNat / 10 % 10 ∧
    ((m.writeBytes a (bcdDigits v)).read (a + 2)).toNat = v.toNat % 10 := by
  have hread (k : Nat) (hk : k < 3) : (m.writeBytes a (bcdDigits v)).read (a + k) = (bcdDigits v)[k] :=
    m.read_writeBytes_inside a k (bcdDigits v) (by simp [bcdDigits]) hk
  refine ⟨?_, ?_, ?_⟩
  · exact (congrArg BitVec.toNat (hread 0 (by decide))).trans (Nat.mod_eq_of_lt (by omega))
  · exact (congrArg BitVec.toNat (hread 1 (by decide))).trans (Nat.mod_eq_of_lt (by omega))
  · exact (congrArg BitVec.toNat (hread 2 (by decide))).trans (Nat.mod_eq_of_lt (by omega))

/-! ## Runs of registers (R154, R155) -/

/-- Where `Fx55` stored a register, memory holds it. -/
theorem read_storedRegister (s : State) (a : Nat) {x k : RegIx} (hk : k.toNat ≤ x.toNat) :
    (s.mem.writeBytes a (s.firstRegs (regCount x))).read (a + k.toNat) = s.getV k := by
  have h := read_writeBytes_firstRegs s.mem s a (regCount x) k.toNat (regCount_le x) (Nat.lt_succ_of_le hk)
  simpa using h

/-- What `Fx65` loads into a register of its run. -/
theorem getV_loadedRegister (s : State) {x k : RegIx} (hk : k.toNat ≤ x.toNat) :
    (s.setRegsFrom 0 (s.mem.readBytes s.indexAddress (regCount x))).getV k = s.mem.read (s.indexAddress + k.toNat) := by
  have hlt : k.toNat < regCount x := Nat.lt_succ_of_le hk
  rw [State.getV_setRegsFrom _ _ _ (by simpa using regCount_le x), if_pos (by simpa using hlt)]
  simp [List.getD, hlt, Memory.getElem_readBytes]

theorem unchangedBut_stRegs (s : State) (x : RegIx) (r : Result) :
    UnchangedBut (memParts s.indexAddress (regCount x)) s
      ({ s with mem := s.mem.writeBytes s.indexAddress (s.firstRegs (regCount x)) }.returns r) := by
  have h := (unchangedBut_writeBytes s s.indexAddress (s.firstRegs (regCount x))).returns r
  rwa [length_firstRegs s _ (regCount_le x)] at h

theorem unchangedBut_ldRegs (s : State) (x : RegIx) (r : Result) :
    UnchangedBut (regParts (regCount x)) s
      ((s.setRegsFrom 0 (s.mem.readBytes s.indexAddress (regCount x))).returns r) := by
  have hlen := s.mem.length_readBytes s.indexAddress (regCount x)
  have h := unchangedBut_setRegsFrom s _ (hlen.trans_le (regCount_le x)) r
  rwa [hlen] at h

/-! ## The obligations -/

/-- Settles O30: the masked byte of the stream, and the next position. -/
theorem randomConsumesOneStreamByte : Obligations.RandomConsumesOneStreamByte := by
  refine fun s x kk => ⟨decode_rnd x kk, _, exec_rnd x kk s, rfl, rfl, unchangedBut_rnd s x _ .ok, fun b => ?_⟩
  rw [State.getV_returns, State.getV_setV_self]
  exact BitVec.getLsbD_and

/-- Settles O33: one write of I, which does not wrap. -/
theorem glyphPointerIsFiveTimesRegister : Obligations.GlyphPointerIsFiveTimesRegister := fun s x =>
  ⟨decode_ldFVx x, finish_setI s (glyphAddress_toNat (s.getV x))⟩

/-- Settles O34: a run of three stored bytes. -/
theorem storeDecimalWritesThreeDigits : Obligations.StoreDecimalWritesThreeDigits := by
  intro s x
  obtain ⟨hundreds, tens, ones⟩ := read_writeBytes_bcdDigits s.mem s.indexAddress (s.getV x)
  exact ⟨decode_ldBVx x, _, finish_eq _, rfl, hundreds, tens, ones,
    (unchangedBut_writeBytes s s.indexAddress (bcdDigits (s.getV x))).returns .ok⟩

/-- Settles O35: a run of stored registers. -/
theorem storeRegistersWritesAscendingBytes : Obligations.StoreRegistersWritesAscendingBytes := fun s x =>
  ⟨decode_stRegs x, _, finish_eq _, rfl, fun _ hk => read_storedRegister s s.indexAddress hk, unchangedBut_stRegs s x .ok⟩

/-- Settles O36: a run of loaded registers. -/
theorem loadRegistersReadsAscendingBytes : Obligations.LoadRegistersReadsAscendingBytes := fun s x =>
  ⟨decode_ldRegs x, _, finish_eq _, rfl, fun _ hk => getV_loadedRegister s hk, unchangedBut_ldRegs s x .ok⟩

/-- Settles O37: the loaded byte is the stored register. -/
theorem storeThenLoadRestoresRegisters : Obligations.StoreThenLoadRestoresRegisters := fun s _ _ =>
  ⟨_, _, finish_eq _, finish_eq _, rfl, fun _ hk => (getV_loadedRegister _ hk).trans (read_storedRegister s s.indexAddress hk)⟩

/-- Settles O38: what memory holds is what is fetched (`fetchSees_of_read`). -/
theorem storeOverNextInstructionIsFetched : Obligations.StoreOverNextInstructionIsFetched := by
  refine fun s => ⟨fun x => ⟨_, finish_eq _, rfl, fun k hk => ?_⟩, fun x => ?_, fun bytes hfits => ?_⟩
  · exact State.fetchSees_of_read _ (congrArg BitVec.toNat (read_storedRegister s s.indexAddress hk))
  · obtain ⟨hundreds, tens, ones⟩ := read_writeBytes_bcdDigits s.mem s.indexAddress (s.getV x)
    exact ⟨_, finish_eq _, rfl, State.fetchSees_of_read _ hundreds, State.fetchSees_of_read _ tens,
      State.fetchSees_of_read _ ones⟩
  · exact ⟨_, load_of_fits hfits s, rfl, fun k hk =>
      State.fetchSees_of_read _ (congrArg BitVec.toNat (read_image s.mem hfits hk))⟩

end Sys2Proof.Machine
end

section
/-! PROOFS. O40, O41 (spec/44_display.md R161): what a draw leaves, and what the collision flag says. -/

namespace Sys2Proof.Machine

/-! ## The collision flag: a set bit of the sprite met a set cell -/

/-- The first `n` bits of a sprite row: the cells right of them are as before, and the flag is raised by a set bit over a set
cell. -/
theorem drawBits_hit (x0 y : Nat) (b : Byte) (d : Framebuffer × Bool) {n : Nat} (hn : n ≤ 8)
    {d' : Framebuffer × Bool} (hd' : d' = (List.range n).foldl (fun d c => drawBit (x0 + c) y (b.getLsbD (7 - c)) d) d) :
    (∀ c, n ≤ c → c < 8 → d'.1.get (x0 + c) y = d.1.get (x0 + c) y) ∧
    (d'.2 = true ↔ d.2 = true ∨ ∃ c < n, b.getLsbD (7 - c) = true ∧ d.1.get (x0 + c) y = true) := by
  induction n generalizing d' with
  | zero => subst hd'; simp
  | succ n ih =>
    rw [List.range_succ, List.foldl_append, List.foldl_cons, List.foldl_nil] at hd'
    obtain ⟨hright, hhit⟩ := ih (by omega) rfl
    subst hd'
    constructor
    · intro c hc hc8
      have hcol : ¬ (x0 + c) % 64 = (x0 + n) % 64 := by omega
      rw [(drawBit_spec _ _ _ _ _ _).1, hright c (by omega) hc8]
      simp [hcol]
    · rw [(drawBit_spec _ _ 0 0 _ _).2, Bool.or_eq_true, hhit, hright n le_rfl (by omega), Bool.and_eq_true, or_assoc]
      refine or_congr_right ?_
      constructor
      · rintro (⟨c, hc, h⟩ | h)
        · exact ⟨c, Nat.lt_succ_of_lt hc, h⟩
        · exact ⟨n, Nat.lt_succ_self n, h⟩
      · rintro ⟨c, hc, h⟩
        rcases Nat.lt_succ_iff_lt_or_eq.1 hc with hc | rfl
        · exact .inl ⟨c, hc, h⟩
        · exact .inr h

theorem drawRow_hit (x0 y : Nat) (b : Byte) (d : Framebuffer × Bool) :
    (drawRow x0 y b d).2 = true ↔
      d.2 = true ∨ ∃ c < 8, b.getLsbD (7 - c) = true ∧ d.1.get (x0 + c) y = true :=
  (drawBits_hit x0 y b d le_rfl rfl).2

/-- A draw of up to 32 rows, so that no row comes round again: the flag is raised by a set bit over a cell that was set. -/
theorem drawRows_hit (m : Memory) (x0 : Nat) {n : Nat} (hn : n ≤ 32) (a y : Nat) (d : Framebuffer × Bool) :
    (drawRows x0 y (m.readBytes a n) d).2 = true ↔ d.2 = true ∨
      ∃ r < n, ∃ c < 8, (m.read (a + r)).getLsbD (7 - c) = true ∧ d.1.get (x0 + c) (y + r) = true := by
  induction n generalizing a y d with
  | zero => simp [Memory.readBytes, drawRows]
  | succ n ih =>
    have hbelow : ∀ r < n, ∀ c, (drawRow x0 y (m.read a) d).1.get (x0 + c) (y + 1 + r) = d.1.get (x0 + c) (y + (r + 1)) := by
      intro r hr c
      have hrow : ¬ (y + 1 + r) % 32 = y % 32 := by omega
      rw [get_drawRow, show y + (r + 1) = y + 1 + r by omega]
      simp [hrow]
    rw [Memory.readBytes, drawRows, ih (by omega), drawRow_hit, or_assoc]
    refine or_congr_right ?_
    constructor
    · rintro (⟨c, hc, h⟩ | ⟨r, hr, c, hc, hbit, hcell⟩)
      · exact ⟨0, by omega, c, hc, h⟩
      · rw [hbelow r hr] at hcell
        exact ⟨r + 1, by omega, c, hc, by rwa [Nat.add_right_comm] at hbit, hcell⟩
    · rintro ⟨_ | r, hr, c, hc, hbit, hcell⟩
      · exact .inl ⟨c, hc, hbit, hcell⟩
      · refine .inr ⟨r, by omega, c, hc, by rwa [Nat.add_right_comm], ?_⟩
        rwa [hbelow r (by omega)]

/-! ## The bits of a sprite and the cells it covers -/

theorem spriteCovers_iff (m : Memory) (a x0 y0 n cx cy : Nat) : spriteCovers m a x0 y0 n cx cy = true ↔
    (cy + 32 - y0 % 32) % 32 < n ∧ (cx + 64 - x0 % 64) % 64 < 8 ∧
      (m.read (a + (cy + 32 - y0 % 32) % 32)).getLsbD (7 - (cx + 64 - x0 % 64) % 64) = true := by
  simp [spriteCovers, and_assoc]

/-- The cell under bit `7 - c` of row `r` is covered when the bit is set, and every covered cell lies under such a bit. Stated
for the cells with a property `p`, which, like every cell, comes round with the edges. -/
theorem exists_bit_iff_exists_covered (m : Memory) (a x0 y0 : Nat) {n : Nat} (hn : n ≤ 32) {p : Nat → Nat → Bool}
    (hp : ∀ cx cy, p (cx % 64) (cy % 32) = p cx cy) :
    (∃ r < n, ∃ c < 8, (m.read (a + r)).getLsbD (7 - c) = true ∧ p (x0 + c) (y0 + r) = true) ↔
      ∃ cx < 64, ∃ cy < 32, p cx cy = true ∧ spriteCovers m a x0 y0 n cx cy = true := by
  constructor
  · rintro ⟨r, hr, c, hc, hbit, hcell⟩
    have hrow : ((y0 + r) % 32 + 32 - y0 % 32) % 32 = r := by omega
    have hcol : ((x0 + c) % 64 + 64 - x0 % 64) % 64 = c := by omega
    refine ⟨(x0 + c) % 64, Nat.mod_lt _ (by decide), (y0 + r) % 32, Nat.mod_lt _ (by decide), ?_, ?_⟩
    · rwa [hp]
    · rw [spriteCovers_iff, hrow, hcol]
      exact ⟨hr, hc, hbit⟩
  · rintro ⟨cx, hcx, cy, hcy, hcell, hcov⟩
    obtain ⟨hr, hc, hbit⟩ := (spriteCovers_iff _ _ _ _ _ _ _).1 hcov
    refine ⟨_, hr, _, hc, hbit, ?_⟩
    have hx : (x0 + (cx + 64 - x0 % 64) % 64) % 64 = cx % 64 := by omega
    have hy : (y0 + (cy + 32 - y0 % 32) % 32) % 32 = cy % 32 := by omega
    rwa [← hp, hx, hy, hp]

theorem byte_ne_zero_iff (b : Byte) : b ≠ 0#8 ↔ ∃ c < 8, b.getLsbD (7 - c) = true := by
  constructor
  · intro h
    by_contra hnone
    refine h (BitVec.eq_of_getLsbD_eq fun j hj => ?_)
    have hbit : ¬ b.getLsbD (7 - (7 - j)) = true := fun e => hnone ⟨7 - j, by omega, e⟩
    rw [show 7 - (7 - j) = j by omega] at hbit
    simpa using hbit
  · rintro ⟨c, -, h⟩ rfl
    simp at h

/-- A sprite covers some cell exactly when one of its bytes has a set bit. -/
theorem exists_covered_iff (m : Memory) (a x0 y0 : Nat) {n : Nat} (hn : n ≤ 32) :
    (∃ cx < 64, ∃ cy < 32, spriteCovers m a x0 y0 n cx cy = true) ↔ ∃ r < n, m.read (a + r) ≠ 0#8 := by
  simpa [byte_ne_zero_iff] using
    (exists_bit_iff_exists_covered m a x0 y0 hn (p := fun _ _ => true) fun _ _ => rfl).symm

/-! ## What `Dxyn` does -/

/-- The cells `Dxyn` covers in a state. -/
def State.covers (s : State) (x y : RegIx) (n : Nat) : Nat → Nat → Bool :=
  spriteCovers s.mem s.indexAddress (s.getV x).toNat (s.getV y).toNat n

/-- Everything `Dxyn` does: the covered cells are toggled, and VF is the collision flag. -/
theorem exec_drw (s : State) (x y : RegIx) {n : Nat} (hn : n ≤ 32) :
    ∃ (fb : Framebuffer) (hit : Bool), exec (.drw x y n) s = finish ({ s with fb := fb }.setFlag (collisionFlag hit)) ∧
      (∀ cx cy, fb.get cx cy = (s.fb.get cx cy ^^ s.covers x y n cx cy)) ∧
      (hit = true ↔ ∃ cx < 64, ∃ cy < 32, s.fb.get cx cy = true ∧ s.covers x y n cx cy = true) := by
  refine ⟨_, _, rfl, fun cx cy => get_drawRows _ _ _ _ _ hn _ _ _, ?_⟩
  rw [drawSprite, drawRows_hit _ _ hn]
  simpa only [Bool.false_eq_true, false_or, State.covers] using exists_bit_iff_exists_covered s.mem s.indexAddress (s.getV x).toNat (s.getV y).toNat hn
    s.fb.get_mod

/-- A draw that names no VF leaves what the next one covers: VF is the only register it writes. -/
theorem covers_after_draw (s : State) (fb : Framebuffer) (f : Byte) (r : Result) {x y : RegIx} (hx : x ≠ vf) (hy : y ≠ vf)
    (n : Nat) : (({ s with fb := fb }.setFlag f).returns r).covers x y n = s.covers x y n := by
  have hgetV (k : RegIx) (hk : k ≠ vf) : (({ s with fb := fb }.setFlag f).returns r).getV k = s.getV k :=
    State.getV_setV_of_ne { s with fb := fb } f hk
  rw [State.covers, hgetV x hx, hgetV y hy]
  rfl

theorem getV_vf_after_draw (s : State) (fb : Framebuffer) (f : Byte) (r : Result) :
    (({ s with fb := fb }.setFlag f).returns r).getV vf = f := State.getV_setV_self { s with fb := fb } vf f

theorem collisionFlag_eq_one_iff (hit : Bool) : collisionFlag hit = 1#8 ↔ hit = true := by cases hit <;> decide

theorem collisionFlag_cases (hit : Bool) : collisionFlag hit = 0#8 ∨ collisionFlag hit = 1#8 := by cases hit <;> decide

/-! ## The obligations -/

/-- Settles O40: up to 15 rows, all of them different rows of the framebuffer. -/
theorem drawTogglesCoveredCellsAndReportsCollision : Obligations.DrawTogglesCoveredCellsAndReportsCollision := by
  refine fun s x y n hn => ⟨decode_drw x y hn, ?_⟩
  rintro _ rfl
  obtain ⟨fb, hit, h, hfb, hhit⟩ := exec_drw s x y (n := n) (by omega)
  refine ⟨_, h, rfl, fun cx _ cy _ => hfb cx cy, ?_, ?_, unchangedBut_drw s fb _ .ok⟩
  · rw [getV_vf_after_draw, collisionFlag_eq_one_iff]
    exact hhit
  · rw [getV_vf_after_draw]
    exact collisionFlag_cases hit

/-- Settles O41: the second draw covers the same cells, so each is toggled twice. -/
theorem drawTwiceRestoresFramebuffer : Obligations.DrawTwiceRestoresFramebuffer := by
  intro s x y n hn hx hy
  obtain ⟨fb, hit, h, hfb, hhit⟩ := exec_drw s x y (n := n) (by omega)
  obtain ⟨fb', hit', h', hfb', hhit'⟩ :=
    exec_drw (({ s with fb := fb }.setFlag (collisionFlag hit)).returns .ok) x y (n := n) (by omega)
  simp only [covers_after_draw s fb _ _ hx hy, State.returns_fb, State.setFlag_fb] at hfb' hhit'
  refine ⟨_, _, h, h', rfl, fun cx _ cy _ => ?_, fun hblank => ⟨?_, ?_⟩⟩
  · simp only [State.returns_fb, State.setFlag_fb, hfb', hfb, Bool.xor_assoc, Bool.xor_self, Bool.xor_false]
  · have hmiss : ¬ hit = true := by
      rw [hhit]
      rintro ⟨cx, hcx, cy, hcy, hset, -⟩
      simp [hblank cx hcx cy hcy] at hset
    rw [getV_vf_after_draw, Bool.eq_false_of_not_eq_true hmiss]
    rfl
  · rw [getV_vf_after_draw, collisionFlag_eq_one_iff, hhit', ← exists_covered_iff s.mem s.indexAddress _ _ (by omega)]
    refine exists_congr fun cx => and_congr_right fun hcx => exists_congr fun cy => and_congr_right fun hcy => ?_
    rw [hfb, hblank cx hcx cy hcy, Bool.false_xor, and_self]
    rfl

end Sys2Proof.Machine
end

section
/-! PROOFS. O55 to O60 (spec/10_state.md R26, R33, R39; spec/60_exceptions.md R210): the map of writers, the run mode, and
the invariant that no run leaves. -/

namespace Sys2Proof.Machine

/-! ## Instructions write what the map lists for them (R39) -/

/-- The map of writers lists for `i` every piece that differs between the two states. -/
def WritesListed (i : Instr) (s t : State) : Prop := ∀ p : Part, instrWrites i p = false → p.same s t

theorem writesListed_of_unchangedBut {i : Instr} {s t : State} {l : List Part} (hl : ∀ p ∈ l, instrWrites i p = true)
    (h : UnchangedBut l s t) : WritesListed i s t := fun p hp =>
  h p fun hmem => Bool.false_ne_true (hp.symm.trans (hl p hmem))

theorem fbParts_listed {i : Instr} (h : ∀ x y, instrWrites i (.fb x y) = true) : ∀ p ∈ fbParts, instrWrites i p = true := by
  intro p hp
  obtain ⟨x, -, hp⟩ := List.mem_flatMap.1 hp
  obtain ⟨y, -, rfl⟩ := List.mem_map.1 hp
  exact h _ _

theorem memParts_listed {i : Instr} (a n : Nat) (h : ∀ b, instrWrites i (.mem b) = true) :
    ∀ p ∈ memParts a n, instrWrites i p = true := by
  intro p hp
  obtain ⟨k, -, rfl⟩ := List.mem_map.1 hp
  exact h _

theorem regParts_listed (x : RegIx) : ∀ p ∈ regParts (regCount x), instrWrites (.ldRegs x) p = true := by
  intro p hp
  obtain ⟨k, hk, rfl⟩ := List.mem_map.1 hp
  rw [List.mem_range, regCount] at hk
  have hx := x.isLt
  exact decide_eq_true (by rw [BitVec.toNat_ofNat, Nat.mod_eq_of_lt (by omega)]; omega)

/-- One register, written last, with or without the flag before it. -/
theorem writesListed_setV {i : Instr} {x : RegIx} (h : instrWrites i (.v x) = true) (s : State) (b : Byte) :
    WritesListed i s ((s.setV x b).returns .ok) :=
  writesListed_of_unchangedBut (by simpa using h) (unchangedBut_setV s x b .ok)

theorem writesListed_setFlag_setV {i : Instr} {x : RegIx} (h : instrWrites i (.v x) = true)
    (hvf : instrWrites i (.v vf) = true) (s : State) (f b : Byte) :
    WritesListed i s (((s.setFlag f).setV x b).returns .ok) :=
  writesListed_of_unchangedBut (by simpa using ⟨h, hvf⟩) (unchangedBut_setFlag_setV s x f b .ok)

theorem writesListed_skipIf {i : Instr} (h : instrWrites i .pc = true) (s : State) (c : Bool) :
    WritesListed i s ((s.skipIf c).returns .ok) :=
  writesListed_of_unchangedBut (by simpa using h) (unchangedBut_skipIf s c .ok)

theorem exec_ret_writesListed {s t : State} (h : exec .ret s = .next t) : WritesListed .ret s t := by
  rcases execRet_cases s with ⟨-, he⟩ | ⟨-, _, he⟩ | ⟨-, he⟩
  · cases he.symm.trans h
    exact writesListed_of_unchangedBut (by simp [instrWrites]) (unchangedBut_raise s .stackUnderflow)
  · cases he.symm.trans h
    exact writesListed_of_unchangedBut (by simp [instrWrites]) (unchangedBut_pop s _ .ok)
  · exact absurd (he.symm.trans h) nofun

theorem exec_call_writesListed {nnn : Imm12} {s t : State} (h : exec (.call nnn) s = .next t) :
    WritesListed (.call nnn) s t := by
  rcases execCall_cases nnn s with ⟨hsp, he⟩ | ⟨-, he⟩ | ⟨-, he⟩
  · cases he.symm.trans h
    exact writesListed_of_unchangedBut (by simp [instrWrites]) (unchangedBut_push s hsp s.pc (immWord nnn) .ok)
  · cases he.symm.trans h
    exact writesListed_of_unchangedBut (by simp [instrWrites]) (unchangedBut_raise s .stackOverflow)
  · exact absurd (he.symm.trans h) nofun

/-- The rows of the map, grouped by what the instruction writes. -/
theorem exec_writesListed {i : Instr} {s t : State} (h : exec i s = .next t) : WritesListed i s t := by
  cases i with
  | ret => exact exec_ret_writesListed h
  | call nnn => exact exec_call_writesListed h
  | seImm | sneImm | seReg | sneReg | skp | sknp => cases h; exact writesListed_skipIf rfl s _
  | jp | jpV0 => cases h; exact writesListed_of_unchangedBut (by simp [instrWrites]) (unchangedBut_pc s _ .ok)
  | ldImm | addImm | ldReg | orReg | andReg | xorReg | ldVxDt =>
    cases h
    exact writesListed_setV (by simp [instrWrites]) s _
  | addReg | sub | shr | subn | shl =>
    cases h
    exact writesListed_setFlag_setV (by simp [instrWrites]) (by simp [instrWrites]) s _ _
  | rnd x kk => cases h; exact writesListed_of_unchangedBut (by simp [instrWrites]) (unchangedBut_rnd s x _ .ok)
  | ldI | addIVx | ldFVx => cases h; exact writesListed_of_unchangedBut (by simp [instrWrites]) (unchangedBut_i s _ .ok)
  | ldVxK x => cases h; exact writesListed_of_unchangedBut (by simp [instrWrites]) (unchangedBut_mode s _ .waiting)
  | ldDtVx x => cases h; exact writesListed_of_unchangedBut (by simp [instrWrites]) (unchangedBut_dt s _ .ok)
  | ldStVx x => cases h; exact writesListed_of_unchangedBut (by simp [instrWrites]) (unchangedBut_st s _ .ok)
  | cls => cases h; exact writesListed_of_unchangedBut (fbParts_listed fun _ _ => rfl) (unchangedBut_fb s .blank .ok)
  | drw x y n =>
    cases h
    exact writesListed_of_unchangedBut (List.forall_mem_cons.2 ⟨rfl, fbParts_listed fun _ _ => rfl⟩)
      (unchangedBut_drw s _ _ .ok)
  | ldBVx | stRegs =>
    cases h
    exact writesListed_of_unchangedBut (memParts_listed _ _ fun _ => rfl) ((unchangedBut_writeBytes s _ _).returns .ok)
  | ldRegs x => cases h; exact writesListed_of_unchangedBut (regParts_listed x) (unchangedBut_ldRegs s x .ok)

/-- A whole TICK: what the instruction it runs may write, PC and the log. -/
theorem tick_writesListed {s t : State} (h : tick s = .next t) {p : Part} (hpc : p ≠ .pc) (hlog : p ≠ .log)
    (hp : s.mode = .run → ∀ i, decode s.fetch = .ok i → instrWrites i p = false) : p.same s t := by
  rcases tick_cases s with ⟨i, hm, hd, he⟩ | ⟨-, -, he⟩ | ⟨x, -, he⟩ | ⟨-, he⟩
  · exact Part.same_trans (unchangedBut_advance s p (by simpa using hpc))
      (exec_writesListed (he.symm.trans h) p (hp hm i hd))
  · cases he.symm.trans h
    exact unchangedBut_nop s _ _ p (by simp [hpc, hlog])
  · cases he.symm.trans h
    exact unchangedBut_returns s _ p List.not_mem_nil
  · cases he.symm.trans h
    exact unchangedBut_returns s _ p List.not_mem_nil

/-! ## Transactions write what the map lists for them (R39) -/

theorem same_of_hostWrites {tr : Transaction} {s t : State} {l : List Part} (h : UnchangedBut l s t)
    (hl : ∀ p ∈ l, hostWrites tr s p = true) {p : Part} (hp : hostWrites tr s p = false) : p.same s t :=
  h p fun hmem => Bool.false_ne_true (hp.symm.trans (hl p hmem))

/-- The bytes of an image that fits lie at 0x200 or above. -/
theorem image_listed {bytes : List Byte} (hfits : bytes.length ≤ 3584) (s : State) :
    ∀ p ∈ memParts 0x200 bytes.length, hostWrites (.load bytes) s p = true := by
  intro p hp
  obtain ⟨k, hk, rfl⟩ := List.mem_map.1 hp
  rw [List.mem_range] at hk
  exact decide_eq_true (by rw [BitVec.toNat_ofNat, Nat.mod_eq_of_lt (by omega)]; exact Nat.le_add_right _ _)

theorem transact_writesListed {tr : Transaction} {s t : State} (htick : tr ≠ .tick) (hreset : tr ≠ .reset)
    (h : transact tr s = .next t) {p : Part} (hp : hostWrites tr s p = false) : p.same s t := by
  cases tr with
  | reset => exact absurd rfl hreset
  | tick => exact absurd rfl htick
  | load bytes =>
    rcases doLoad_cases bytes s with ⟨hfits, he⟩ | ⟨-, he⟩
    · cases he.symm.trans h
      exact same_of_hostWrites ((unchangedBut_writeBytes s 0x200 bytes).returns .ok) (image_listed hfits s) hp
    · cases he.symm.trans h
      exact same_of_hostWrites (unchangedBut_raise s _) (by simp [hostWrites]) hp
  | keyDown k =>
    cases k with
    | none => cases h; exact unchangedBut_returns s _ p List.not_mem_nil
    | some k =>
      rcases keyDown_cases k s with ⟨x, hm, he⟩ | ⟨-, he⟩
      · cases he.symm.trans h
        exact same_of_hostWrites (unchangedBut_completeWait s _ x _ _) (by simp [hostWrites, hm]) hp
      · cases he.symm.trans h
        exact same_of_hostWrites (unchangedBut_keys s _ _) (by simp [hostWrites]) hp
  | keyUp k =>
    cases k with
    | none => cases h; exact unchangedBut_returns s _ p List.not_mem_nil
    | some k => cases h; exact same_of_hostWrites (unchangedBut_keys s _ _) (by simp [hostWrites]) hp
  | timerDec => cases h; exact same_of_hostWrites (unchangedBut_timers s _ _ _) (by simp [hostWrites]) hp
  | cancel =>
    rcases cancel_cases s with ⟨x, hm, he⟩ | ⟨-, he⟩
    · cases he.symm.trans h
      exact same_of_hostWrites (unchangedBut_cancel s _ _) (by simp [hostWrites, hm]) hp
    · cases he.symm.trans h
      exact unchangedBut_returns s _ p List.not_mem_nil
  | fbQuery x y => cases h; exact unchangedBut_returns s _ p List.not_mem_nil
  | timerPoll => cases h; exact unchangedBut_returns s _ p List.not_mem_nil

/-! ## The run mode (R33) -/

theorem instrWrites_mode {i : Instr} (h : ∀ x, i ≠ .ldVxK x) : instrWrites i .mode = false := by
  cases i with
  | ldVxK x => exact absurd rfl (h x)
  | _ => rfl

/-- A TICK changes MODE only by the key wait. -/
theorem tick_mode {s t : State} (h : tick s = .next t) : t.mode = s.mode ∨
    (s.mode = .run ∧ ∃ x, decode s.fetch = .ok (.ldVxK x) ∧ t.mode = .waitKey x) := by
  by_cases hwait : s.mode = .run ∧ ∃ x, decode s.fetch = .ok (.ldVxK x)
  · obtain ⟨hm, x, hd⟩ := hwait
    cases h.symm.trans (tick_of_decoded hm hd)
    exact .inr ⟨hm, x, hd, rfl⟩
  · refine .inl (tick_writesListed h (p := .mode) nofun nofun fun hm i hd => instrWrites_mode ?_)
    rintro x rfl
    exact hwait ⟨hm, x, hd⟩

/-- The other transactions change MODE only as R33 lists. -/
theorem transact_mode {tr : Transaction} {s t : State} (htick : tr ≠ .tick) (h : transact tr s = .next t) :
    t.mode = s.mode ∨
    ((∃ x, s.mode = .waitKey x) ∧ (∃ k, tr = .keyDown (some k)) ∧ t.mode = .run) ∨
    ((∃ x, s.mode = .waitKey x) ∧ tr = .cancel ∧ t.mode = .cancelled) ∨
    (tr = .reset ∧ t.mode = .run) := by
  cases tr with
  | tick => exact absurd rfl htick
  | reset => cases h; exact .inr (.inr (.inr ⟨rfl, rfl⟩))
  | keyDown k =>
    cases k with
    | none => cases h; exact .inl rfl
    | some k =>
      rcases keyDown_cases k s with ⟨x, hm, he⟩ | ⟨-, he⟩
      · cases he.symm.trans h
        exact .inr (.inl ⟨⟨x, hm⟩, ⟨k, rfl⟩, rfl⟩)
      · cases he.symm.trans h
        exact .inl rfl
  | cancel =>
    rcases cancel_cases s with ⟨x, hm, he⟩ | ⟨-, he⟩
    · cases he.symm.trans h
      exact .inr (.inr (.inl ⟨⟨x, hm⟩, rfl, rfl⟩))
    · cases he.symm.trans h
      exact .inl rfl
  | load | keyUp | timerDec | fbQuery | timerPoll =>
    exact .inl (transact_writesListed htick nofun h (p := .mode) rfl)

/-! ## A legal SP: every instruction and transaction answers a next state (R210) -/

theorem exec_answers (i : Instr) {s : State} (h : s.sp.toNat ≤ 16) : ∃ t, exec i s = .next t := by
  rcases exec_cases i s with ⟨⟨u, he⟩, -⟩ | ⟨x, -, he⟩ | ⟨-, -, he⟩ | ⟨-, -, he⟩ | ⟨hgt, -⟩
  · exact ⟨_, he⟩
  · exact ⟨_, he⟩
  · exact ⟨_, he⟩
  · exact ⟨_, he⟩
  · omega

theorem transact_answers (tr : Transaction) {s : State} (h : s.sp.toNat ≤ 16) : ∃ t, transact tr s = .next t := by
  cases tr with
  | tick =>
    rcases tick_cases s with ⟨i, -, -, he⟩ | ⟨-, -, he⟩ | ⟨x, -, he⟩ | ⟨-, he⟩
    · obtain ⟨t, ht⟩ := exec_answers i (s := s.advance) h
      exact ⟨t, he.trans ht⟩
    · exact ⟨_, he⟩
    · exact ⟨_, he⟩
    · exact ⟨_, he⟩
  | load bytes =>
    rcases doLoad_cases bytes s with ⟨-, he⟩ | ⟨-, he⟩
    · exact ⟨_, he⟩
    · exact ⟨_, he⟩
  | cancel =>
    rcases cancel_cases s with ⟨x, -, he⟩ | ⟨-, he⟩
    · exact ⟨_, he⟩
    · exact ⟨_, he⟩
  | keyDown k => cases k <;> exact ⟨_, rfl⟩
  | keyUp k => cases k <;> exact ⟨_, rfl⟩
  | reset | timerDec | fbQuery | timerPoll => exact ⟨_, rfl⟩

theorem exec_ret_of_gt {s : State} (h : 16 < s.sp.toNat) : exec .ret s = .fault .stackPointerRange := by
  rcases execRet_cases s with ⟨hsp, -⟩ | ⟨hpos, hlt, -⟩ | ⟨-, he⟩
  · simp [hsp] at h
  · rw [sp_pred_toNat s hpos] at hlt
    omega
  · exact he

theorem exec_call_of_gt {s : State} (nnn : Imm12) (h : 16 < s.sp.toNat) :
    exec (.call nnn) s = .fault .stackPointerRange := by
  rcases execCall_cases nnn s with ⟨hlt, -⟩ | ⟨hsp, -⟩ | ⟨-, he⟩
  · omega
  · simp [hsp] at h
  · exact he

/-! ## The invariant (R26) -/

/-- The invariant speaks of SP and memory alone. -/
theorem State.Inv.of_eq {s t : State} (h : s.Inv) (hsp : t.sp = s.sp) (hmem : t.mem = s.mem) : t.Inv := by
  rw [State.Inv, hsp, hmem]
  exact h

theorem State.Inv.of_writeBytes {s t : State} (h : s.Inv) (hsp : t.sp = s.sp) {a : Nat} {bs : List Byte}
    (hmem : t.mem = s.mem.writeBytes a bs) : t.Inv := by
  obtain ⟨hle, hwf⟩ := h
  exact ⟨by rwa [hsp], by rw [hmem]; exact s.mem.writeBytes_wf a bs hwf⟩

theorem exec_keeps_inv {i : Instr} {s t : State} (hinv : s.Inv) (h : exec i s = .next t) : t.Inv := by
  cases i with
  | ret =>
    rcases execRet_cases s with ⟨-, he⟩ | ⟨-, hlt, he⟩ | ⟨-, he⟩
    · cases he.symm.trans h
      exact hinv.of_eq rfl rfl
    · cases he.symm.trans h
      exact ⟨hlt.le, hinv.2⟩
    · exact absurd (he.symm.trans h) nofun
  | call nnn =>
    rcases execCall_cases nnn s with ⟨hlt, he⟩ | ⟨-, he⟩ | ⟨-, he⟩
    · cases he.symm.trans h
      exact ⟨(sp_succ_toNat s hlt).trans_le hlt, hinv.2⟩
    · cases he.symm.trans h
      exact hinv.of_eq rfl rfl
    · exact absurd (he.symm.trans h) nofun
  | ldBVx | stRegs => cases h; exact hinv.of_writeBytes rfl rfl
  | ldRegs =>
    cases h
    rw [State.setRegsFrom_frame]
    exact hinv.of_eq rfl rfl
  | seImm | sneImm | seReg | sneReg | skp | sknp =>
    cases h
    rw [State.skipIf_eq]
    exact hinv.of_eq rfl rfl
  | _ => cases h; exact hinv.of_eq rfl rfl

theorem tick_keeps_inv {s t : State} (hinv : s.Inv) (h : tick s = .next t) : t.Inv := by
  rcases tick_cases s with ⟨i, -, -, he⟩ | ⟨-, -, he⟩ | ⟨x, -, he⟩ | ⟨-, he⟩
  · exact exec_keeps_inv (s := s.advance) hinv (he.symm.trans h)
  · cases he.symm.trans h
    exact hinv.of_eq rfl rfl
  · cases he.symm.trans h
    exact hinv.of_eq rfl rfl
  · cases he.symm.trans h
    exact hinv.of_eq rfl rfl

theorem transact_keeps_inv {tr : Transaction} {s t : State} (hinv : s.Inv) (h : transact tr s = .next t) : t.Inv := by
  cases tr with
  | tick => exact tick_keeps_inv hinv h
  | reset => cases h; exact ⟨Nat.zero_le _, State.resetWith_mem_wf s.mem.glyphs⟩
  | load bytes =>
    rcases doLoad_cases bytes s with ⟨-, he⟩ | ⟨-, he⟩
    · cases he.symm.trans h
      exact hinv.of_writeBytes rfl rfl
    · cases he.symm.trans h
      exact hinv.of_eq rfl rfl
  | keyDown k =>
    cases k with
    | none => cases h; exact hinv.of_eq rfl rfl
    | some k =>
      rcases keyDown_cases k s with ⟨x, -, he⟩ | ⟨-, he⟩
      · cases he.symm.trans h
        exact hinv.of_eq rfl rfl
      · cases he.symm.trans h
        exact hinv.of_eq rfl rfl
  | keyUp k => cases k <;> (cases h; exact hinv.of_eq rfl rfl)
  | cancel =>
    rcases cancel_cases s with ⟨x, -, he⟩ | ⟨-, he⟩
    · cases he.symm.trans h
      exact hinv.of_eq rfl rfl
    · cases he.symm.trans h
      exact hinv.of_eq rfl rfl
  | timerDec | fbQuery | timerPoll => cases h; exact hinv.of_eq rfl rfl

theorem step_keeps_inv {s t : State} (hinv : s.Inv) (h : step s = .next t) : t.Inv := by
  rcases step_cases s with ⟨-, he⟩ | ⟨tr, rest, -, he⟩
  · exact tick_keeps_inv hinv (he.symm.trans h)
  · exact transact_keeps_inv (s := { s with inbox := rest }) hinv (he.symm.trans h)

theorem step_answers {s : State} (hinv : s.Inv) : ∃ t, step s = .next t := by
  rcases step_cases s with ⟨-, he⟩ | ⟨tr, rest, -, he⟩
  · rw [he]
    exact transact_answers .tick hinv.1
  · rw [he]
    exact transact_answers tr (s := { s with inbox := rest }) hinv.1

/-- A run takes its first step, then runs on. -/
theorem run_succ {s s' : State} (h : step s = .next s') (k : Nat) : core.run (k + 1) s = core.run k s' := by
  have hcore : core.step s = .next s' := h
  simp only [Host.Core.run, hcore]

/-! ## The obligations -/

/-- Settles O55: the map of writers, for instructions, for a TICK and for the other transactions. -/
theorem onlyListedWritersWrite : Obligations.OnlyListedWritersWrite :=
  ⟨fun _ _ _ h p => exec_writesListed h p, fun _ _ h _ hpc hlog => tick_writesListed h hpc hlog,
    fun _ _ _ htick hreset h _ => transact_writesListed htick hreset h⟩

/-- Settles O56: a step is a TICK or one of the other transactions. -/
theorem modeChangesByListedTransitionsOnly : Obligations.ModeChangesByListedTransitionsOnly := by
  intro s t h
  rcases step_cases s with ⟨hin, he⟩ | ⟨tr, rest, hin, he⟩
  · rcases tick_mode (he.symm.trans h) with hmode | ⟨hm, hwait⟩
    · exact .inl hmode
    · exact .inr (.inl ⟨hm, .inl hin, hwait⟩)
  · by_cases htick : tr = .tick
    · subst htick
      rcases tick_mode (he.symm.trans h) with hmode | ⟨hm, hwait⟩
      · exact .inl hmode
      · exact .inr (.inl ⟨hm, .inr ⟨rest, hin⟩, hwait⟩)
    · rcases transact_mode htick (he.symm.trans h) with hmode | ⟨hm, ⟨k, rfl⟩, hrun⟩ | ⟨hm, rfl, hcan⟩ | ⟨rfl, hrun⟩
      · exact .inl hmode
      · exact .inr (.inr (.inl ⟨hm, ⟨k, rest, hin⟩, hrun⟩))
      · exact .inr (.inr (.inr (.inl ⟨hm, ⟨rest, hin⟩, hcan⟩)))
      · exact .inr (.inr (.inr (.inr ⟨⟨rest, hin⟩, hrun⟩)))

/-- Settles O57: only RET and CALL can stop, and only where SP names no slot. -/
theorem stopsOnlyWithStackPointerOutOfRange : Obligations.StopsOnlyWithStackPointerOutOfRange :=
  ⟨fun tr _ h => transact_answers tr h, fun i _ h => exec_answers i h, fun _ nnn h => ⟨exec_ret_of_gt h, exec_call_of_gt nnn h⟩⟩

/-- Settles O58: SP is 0 and no byte is listed. -/
theorem invariantHoldsAtReset : Obligations.InvariantHoldsAtReset :=
  ⟨Nat.zero_le _, State.resetWith_mem_wf conventionalFont⟩

/-- Settles O59: a push raises SP to 16 at most, and every store keeps the canonical form. -/
theorem everyStepKeepsTheInvariant : Obligations.EveryStepKeepsTheInvariant := fun _ _ => step_keeps_inv

/-- Settles O60, by induction on the number of steps: within the invariant a step answers, and stays within it. -/
theorem noRunFromTheInvariantStops : Obligations.NoRunFromTheInvariantStops := by
  intro k
  induction k with
  | zero => exact fun s hinv => ⟨s, rfl, hinv⟩
  | succ k ih =>
    intro s hinv
    obtain ⟨s', hstep⟩ := step_answers hinv
    obtain ⟨t, hrun, ht⟩ := ih s' (step_keeps_inv hinv hstep)
    exact ⟨t, (run_succ hstep k).trans hrun, ht⟩

end Sys2Proof.Machine
end
